-- ==== Sys2Proof/Word.lean ====
section
/-! DEFINITION. The value types of the core (00_scope.md R10, R11): a byte and a 3-bit index, both unsigned. -/

namespace Sys2Proof

/-- R11 `byte`: an unsigned 8-bit value; bit `i` has weight `2^i` (R10). -/
abbrev Byte := BitVec 8

/-- R11 `idx3`: an unsigned 3-bit value, a bit position 0 to 7. -/
abbrev Idx3 := BitVec 3

end Sys2Proof
end

