-- ==== Sys2Proof/Config.lean ====
section
/-! DEFINITION. The configuration of a Card: the PinMap, the five derived masks, the three sampled levels, and the two
pin assignments the spec names for testing. The values of the parameters of R8 stand in Machine/Params.lean. -/

namespace Sys2Proof

/-- R21: the PinMap, four 3-bit positions of the 8-bit port (the width is the spec's decision D8). -/
structure PinMap where
  clock   : Idx3
  dataOut : Idx3
  dataIn  : Idx3
  select  : Idx3
  deriving DecidableEq, Repr

/-- R100: the five masks MASKS derives from the PinMap. `combined` is read by no rule (R105). -/
structure Masks where
  clock    : Byte
  dataOut  : Byte
  dataIn   : Byte
  select   : Byte
  combined : Byte
  deriving DecidableEq, Repr

/-- R101: the three levels SAMPLE decodes from one port byte. They are not state (R34); `select` true is deselected. -/
structure Levels where
  select  : Bool
  dataOut : Bool
  clock   : Bool
  deriving DecidableEq, Repr

/-- PM_A of 92_eei_decisions.md D15. The spec leaves the PinMap open (N2); this one is the spec's own test assignment.
DESIGN CHOICE as the PinMap of `State.reset` (log 3), unsafe: nothing may rest on it. -/
def Config.pmA : PinMap := { clock := 0, dataOut := 1, dataIn := 2, select := 3 }

/-- PM_B of 92_eei_decisions.md D15, a scattered assignment, used in tests only. -/
def Config.pmB : PinMap := { clock := 5, dataOut := 7, dataIn := 6, select := 2 }

/-- R31: the card image a Card is constructed with; OPEN in the spec, may be empty. DESIGN CHOICE: none loaded (log 3),
unsafe only in form, since no rule reads it. -/
def Config.image : List Byte := []

end Sys2Proof
end

