-- ==== Sys2Proof/Machine/Flags.lean ====
section
/-! DEFINITION. The edge flags of a selected WRITE (42_shift_engine.md R132). The core has no arithmetic flags (R28). -/

namespace Sys2Proof.Machine

/-- R132: low at the last selected WRITE, high now. -/
def rising (priorClock clockLevel : Bool) : Bool := !priorClock && clockLevel

/-- R132: high at the last selected WRITE, low now. -/
def falling (priorClock clockLevel : Bool) : Bool := priorClock && !clockLevel

end Sys2Proof.Machine
end

