-- ==== Sys2Proof/Machine/Params.lean ====
section
/-! DEFINITION. The parameters of R8 that this hardware fixes. The literals are the source's, unaudited (D14, log 17); the
three reset values at the end are the spec's decisions, not the source's. -/

namespace Sys2Proof.Machine

/-- R8 `POWER_ON_QUEUE`, R79: two busy bytes, then the ready token. -/
def powerOnQueue : List Byte := [0x00#8, 0x00#8, 0xFF#8]

/-- R8 `QUEUE_DEFAULT`, R121: what an empty queue yields. -/
def queueDefault : Byte := 0x00#8

/-- R8 `CMD_TABLE`, R76: the one byte that is a command. -/
def cmd40Byte : Byte := 0x40#8

/-- R8 `CMD_TABLE`, R79: the response CMD_40 enqueues, first byte first. -/
def cmd40Response : List Byte := [0xAA#8, 0xAB#8, 0xAC#8, 0xAD#8]

/-- R23, R29: the bit index at the start of a byte. -/
def firstBitIndex : Idx3 := 7#3

/-- R137: the cleared input buffer at the start of a byte. -/
def clearedInput : Byte := 0x00#8

/-- R8 `RESET_PRIOR_CLOCK`. DESIGN CHOICE: the spec's decision D1 (log 4), unsafe. -/
def resetPriorClock : Bool := false

/-- R8 `RESET_OUTPUT_LINE`. DESIGN CHOICE: the spec's decision D2 (log 5), unsafe. -/
def resetOutputLine : Bool := false

/-- R8 `RESET_INPUT_BUFFER`. DESIGN CHOICE: the spec's decision D3 (log 6), unsafe. -/
def resetInputBuffer : Byte := 0x00#8

end Sys2Proof.Machine
end

