-- ==== Sys2Proof/Syntax.lean ====
section
/-! DEFINITION. The operations of the core, one constructor per row of opcode_table.json (R7), and the calls a host makes. -/

namespace Sys2Proof

/-- R7 and opcode_table.json: the 19 operations that stand where an instruction set would. -/
inductive Instr where
  /-- RESET, strobe `1x` (R230). -/
  | reset
  /-- WRITE of one port byte, strobe `01` (R130). -/
  | write (portByte : Byte)
  /-- NOP, strobe `00` (R181). -/
  | nop
  /-- READ, no strobe: the value of `port_out` (R180). -/
  | read
  /-- WRITE.DESEL, pin word `1xxx` (R131). -/
  | writeDesel
  /-- WRITE.HOLD_LO, pin word `000x` (R134). -/
  | writeHoldLo
  /-- WRITE.HOLD_HI, pin word `011x` (R134). -/
  | writeHoldHi
  /-- WRITE.RISE, pin word `001x` (R135). -/
  | writeRise
  /-- WRITE.FALL_MID, pin word `0100`; operand: the data-out level `d` (R136). -/
  | writeFallMid (dataOut : Bool)
  /-- WRITE.FALL_LAST, pin word `0101`; operand: the data-out level `d` (R137). -/
  | writeFallLast (dataOut : Bool)
  /-- CMD_40, command byte 0x40 (R161). -/
  | cmd40
  /-- CMD_NONE, every other command byte; the constructor keeps the byte it was decoded from, so that no bit of the
  encoding is lost (R162; DESIGN CHOICE, log 14, safe: no effect reads it). -/
  | cmdNone (rx : Byte)
  /-- MASKS, internal (R100). -/
  | masks
  /-- SAMPLE of one port byte, internal (R101). -/
  | sample (portByte : Byte)
  /-- ENCODE of a line level, internal (R102). -/
  | encode (outputLine : Bool)
  /-- ENQUEUE of a sequence of bytes, internal (R120). -/
  | enqueue (bytes : List Byte)
  /-- DEQUEUE_OR_DEFAULT, internal (R121). -/
  | dequeueOrDefault
  /-- BOUNDARY with the completed input byte and the output byte to be replaced, internal (R160). -/
  | boundary (rx tx : Byte)
  /-- EVENT with the two bytes of the exchange, internal (R164). -/
  | event (rx tx : Byte)
  deriving DecidableEq, Repr

/-- One call of the host (R72, R13): a step of the signal interface with its strobe word (bit 1 `rst`, bit 0 `wr`) and
`port_in`, or the call `read()`, which has no strobe. -/
inductive HostCall where
  | strobe (word : BitVec 2) (portIn : Byte)
  | read
  deriving DecidableEq, Repr

/-- R80: the exchange event, `rx` the completed input byte and `tx` the output byte shifted out with it. -/
structure Event where
  rx : Byte
  tx : Byte
  deriving DecidableEq, Repr

end Sys2Proof
end

