-- ==== Sys2Proof/WellFormed.lean ====
section
/-! DEFINITION. Well-formedness: of the configuration (R9) and of an instruction as syntax. -/

namespace Sys2Proof

/-- R9 `WF(pins)`: the four indices pairwise distinct; that each is in 0 to 7 holds by the 3-bit type (D8). It is the
premise of every claim about a Card, and `construct` refuses a PinMap without it; the rules stay total (R104, log 12). -/
def PinMap.wf (p : PinMap) : Bool :=
  p.clock != p.dataOut && p.clock != p.dataIn && p.clock != p.select &&
  p.dataOut != p.dataIn && p.dataOut != p.select && p.dataIn != p.select

/-- R9: the named premise of every claim about a Card. -/
abbrev WF (pins : PinMap) : Prop := pins.wf = true

/-- Well-formedness of an instruction. Every operand of every operation is legal (R78) but one: CMD_NONE is the class of the
bytes other than 0x40 (R76, R162). -/
def Instr.wf : Instr → Bool
  | .reset => true
  | .write _ => true
  | .nop => true
  | .read => true
  | .writeDesel => true
  | .writeHoldLo => true
  | .writeHoldHi => true
  | .writeRise => true
  | .writeFallMid _ => true
  | .writeFallLast _ => true
  | .cmd40 => true
  | .cmdNone rx => rx != Machine.cmd40Byte
  | .masks => true
  | .sample _ => true
  | .encode _ => true
  | .enqueue _ => true
  | .dequeueOrDefault => true
  | .boundary _ _ => true
  | .event _ _ => true

end Sys2Proof
end

