-- ==== Sys2Proof/Decode.lean ====
section
/-! DEFINITION. The decoder and the encoder (30_encoding.md). The core has three decode tables: the host strobe (R72), the
pin word of a WRITE (R74) and the command byte (R76). No word of any of them is illegal (R78), so `decode` answers on every
word; only a number that is no word of a table is rejected, by name (`TableReject`). -/

namespace Sys2Proof

/-- A word of one of the three decode tables: a host call (R72), the pin word s,p,c,z with the data-out level `d` that goes
with it (R73), or a completed input byte (R75). -/
inductive OpWord where
  | host (call : HostCall)
  | pins (word : BitVec 4) (dataOut : Bool)
  | command (byte : Byte)
  deriving DecidableEq, Repr

/-- R72: the strobe word, bit 1 `rst`, bit 0 `wr`. RESET wins over WRITE (D7, log 9). -/
def decodeStrobe (word : BitVec 2) (portIn : Byte) : Instr :=
  match word.getLsbD 1, word.getLsbD 0 with
  | true, _ => .reset
  | false, true => .write portIn
  | false, false => .nop

/-- R72, R13: the operation a host call requests. -/
def decodeCall : HostCall → Instr
  | .strobe word portIn => decodeStrobe word portIn
  | .read => .read

/-- R74: the class of a WRITE from its pin word, bit 3 `s`, bit 2 `p`, bit 1 `c`, bit 0 `z`. The select test comes first. -/
def decodePins (word : BitVec 4) (dataOut : Bool) : Instr :=
  match word.getLsbD 3, word.getLsbD 2, word.getLsbD 1, word.getLsbD 0 with
  | true, _, _, _ => .writeDesel
  | false, false, false, _ => .writeHoldLo
  | false, true, true, _ => .writeHoldHi
  | false, false, true, _ => .writeRise
  | false, true, false, false => .writeFallMid dataOut
  | false, true, false, true => .writeFallLast dataOut

/-- R76: whether a completed input byte is CMD_40, all eight bits compared (R143 f). -/
def isCmd40 (rx : Byte) : Bool := rx == Machine.cmd40Byte

/-- R76: the command a completed input byte is. -/
def decodeCommand (rx : Byte) : Instr := if isCmd40 rx then .cmd40 else .cmdNone rx

/-- The decoder, total on the words of the three tables (R78). -/
def decode : OpWord → Instr
  | .host call => decodeCall call
  | .pins word dataOut => decodePins word dataOut
  | .command byte => decodeCommand byte

/-- The word of an instruction, with the bits its table row ignores 0; none for the internal operations, which have no
encoding (R79). READ has no strobe; its word is the call itself (R72). -/
def encode : Instr → Option OpWord
  | .reset => some (.host (.strobe 0b10#2 0x00#8))
  | .write portByte => some (.host (.strobe 0b01#2 portByte))
  | .nop => some (.host (.strobe 0b00#2 0x00#8))
  | .read => some (.host .read)
  | .writeDesel => some (.pins 0b1000#4 false)
  | .writeHoldLo => some (.pins 0b0000#4 false)
  | .writeHoldHi => some (.pins 0b0110#4 false)
  | .writeRise => some (.pins 0b0010#4 false)
  | .writeFallMid d => some (.pins 0b0100#4 d)
  | .writeFallLast d => some (.pins 0b0101#4 d)
  | .cmd40 => some (.command Machine.cmd40Byte)
  | .cmdNone rx => some (.command rx)
  | .masks => none
  | .sample _ => none
  | .encode _ => none
  | .enqueue _ => none
  | .dequeueOrDefault => none
  | .boundary _ _ => none
  | .event _ _ => none

/-- Why a number is no word of opcode_table.json. -/
inductive TableReject where
  /-- No row has so many bits. -/
  | noSuchWidth
  /-- A bit above the row's width is set. -/
  | bitAboveWord
  deriving DecidableEq, Repr

/-- The word an opcode-table row's number stands for. The table numbers three formats of 2, 4 and 8 bits, and a number does
not say its format; DESIGN CHOICE (log 15): up to one byte, 0 to 3 are strobe words, 4 to 15 pin words, 16 to 31 pin words
whose row marks bit 4 (the reader's field `width`), 32 to 255 command bytes; in two bytes, a command byte, with or without
the row's mark in bit 8. A WRITE strobe has port byte 0, a falling pin word data-out level 0. -/
def tableWord (nbits w : Nat) : Except TableReject OpWord :=
  if nbits ≤ 8 then
    if w < 4 then .ok (.host (.strobe (BitVec.ofNat 2 w) 0x00#8))
    else if w < 32 then .ok (.pins (BitVec.ofNat 4 w) false)
    else if w < 256 then .ok (.command (BitVec.ofNat 8 w))
    else .error .bitAboveWord
  else if nbits ≤ 16 then
    if w < 512 then .ok (.command (BitVec.ofNat 8 w)) else .error .bitAboveWord
  else .error .noSuchWidth

/-- The instruction the decoder reads from an opcode-table row's number. -/
def decodeTableWord (nbits w : Nat) : Option Instr :=
  match tableWord nbits w with
  | .ok word => some (decode word)
  | .error _ => none

end Sys2Proof
end

