-- ==== Sys2Proof/Machine/Operands.lean ====
section
/-! DEFINITION. The pin mapping (40_pin_mapping.md): MASKS, SAMPLE and ENCODE as functions, and the bit primitives of R12. -/

namespace Sys2Proof.Machine

/-- R12, D4 (log 7): `1 << i`, the byte with only bit `i` set. -/
def bitMask (i : Idx3) : Byte := 1#8 <<< i.toNat

/-- R12, R143 (c): `v[i]`, bit `i` of a byte. -/
def bitAt (v : Byte) (i : Idx3) : Bool := v.getLsbD i.toNat

/-- R143 (b): the byte with bit `i` set; no other bit changes. -/
def setBit (v : Byte) (i : Idx3) : Byte := v ||| bitMask i

/-- R100 MASKS. -/
def deriveMasks (p : PinMap) : Masks :=
  { clock := bitMask p.clock
    dataOut := bitMask p.dataOut
    dataIn := bitMask p.dataIn
    select := bitMask p.select
    combined := bitMask p.clock ||| bitMask p.dataOut ||| bitMask p.dataIn ||| bitMask p.select }

/-- R81, R143 (e): a level is `(portByte & mask) != 0`. -/
def level (portByte mask : Byte) : Bool := portByte &&& mask != 0x00#8

/-- R101 SAMPLE. -/
def sampleLevels (m : Masks) (portByte : Byte) : Levels :=
  { select := level portByte m.select
    dataOut := level portByte m.dataOut
    clock := level portByte m.clock }

/-- R102 ENCODE. -/
def encodeLine (m : Masks) (outputLine : Bool) : Byte := if outputLine then m.dataIn else 0x00#8

/-- R85 `PB(s, c, d)`: the port byte that shows the given levels, all other bits 0. -/
def portByteOf (m : Masks) (l : Levels) : Byte :=
  (if l.select then m.select else 0x00#8) ||| (if l.clock then m.clock else 0x00#8) |||
    (if l.dataOut then m.dataOut else 0x00#8)

end Sys2Proof.Machine
end

