-- ==== Sys2Proof/Machine/Spi.lean ====
section
/-! DEFINITION. The SPI protocol state (10_state.md R22 to R27) and the two queue primitives over it (41_queue.md). -/

namespace Sys2Proof.Machine

/-- The six fields of `spi`, "the mutable protocol state" (R20). -/
structure Spi where
  /-- R22: the clock level of the last selected WRITE. -/
  priorClock   : Bool
  /-- R23: the position within the current byte, counting down from 7. -/
  bitIndex     : Idx3
  /-- R24: the byte being shifted out. -/
  outputBuffer : Byte
  /-- R25: the bytes to become the next `outputBuffer`, head first; no bound (D5, log 8). -/
  outputQueue  : List Byte
  /-- R26: the level presented on the data-into-host signal. -/
  outputLine   : Bool
  /-- R27: the byte being assembled. -/
  inputBuffer  : Byte
  deriving DecidableEq, Repr

/-- R120 `QPush`: append at the tail, in argument order. -/
def Spi.push (c : Spi) (bytes : List Byte) : Spi := { c with outputQueue := c.outputQueue ++ bytes }

/-- R121 `QPop`: the byte returned, the head or the default. -/
def Spi.popped (c : Spi) : Byte :=
  match c.outputQueue with
  | [] => queueDefault
  | b :: _ => b

/-- R121 `QPop`: what remains after it; an empty queue stays empty. -/
def Spi.afterPop (c : Spi) : Spi :=
  match c.outputQueue with
  | [] => c
  | _ :: rest => { c with outputQueue := rest }

/-- R163: the refresh, `outputBuffer <- QPop`. -/
def Spi.refresh (c : Spi) : Spi := { c.afterPop with outputBuffer := c.popped }

/-- R230: what RESET leaves. The queue is pre-loaded and its first byte dequeued into `outputBuffer`; the values of
`priorClock`, `outputLine` and `inputBuffer` are the spec's decisions D1, D2, D3 (log 4, 5, 6). -/
def Spi.initial : Spi :=
  Spi.refresh (Spi.push
    { priorClock := resetPriorClock, bitIndex := firstBitIndex, outputBuffer := queueDefault, outputQueue := [],
      outputLine := resetOutputLine, inputBuffer := resetInputBuffer }
    powerOnQueue)

end Sys2Proof.Machine
end

