-- ==== Sys2Proof/Machine/State.lean ====
section
/-! DEFINITION. The state of the machine: the Card (R20) and the host interface (R72); how a step can stop; reset. -/

namespace Sys2Proof.Machine

/-- What an operation returns to its caller (R13, R80, R100 to R102, R121, R160, R164, R180): the outputs of the host
interface and the results of the internal operations. -/
inductive Result where
  /-- Nothing: `ev_valid` = 0. -/
  | nothing
  /-- The exchange event: `ev_valid` = 1 with `ev_rx`, `ev_tx`. -/
  | event (e : Event)
  /-- A byte: the value READ, ENCODE or DEQUEUE_OR_DEFAULT returns. -/
  | byte (b : Byte)
  /-- The three levels SAMPLE returns. -/
  | levels (l : Levels)
  /-- The five masks MASKS returns. -/
  | masks (m : Masks)
  deriving DecidableEq, Repr

/-- The whole machine. `pins`, `masks` and `storage` are the configuration the Card owns and no WRITE changes (R20); `spi` is
the protocol state (R22 to R27); `pending` and `result` are the host interface (R72). -/
structure State where
  /-- R21: the PinMap. -/
  pins    : PinMap
  /-- R20, R100: the masks, computed at construction. -/
  masks   : Masks
  /-- R31: the card image; no rule reads or writes it. -/
  storage : List Byte
  /-- R22 to R27. -/
  spi     : Spi
  /-- R72, R13: the host's calls not yet made, oldest first. DESIGN CHOICE (log 1): the model's carrier of the inputs. -/
  pending : List HostCall
  /-- R13, R72: what the last operation returned. The model's own field, read by no rule. DESIGN CHOICE (log 2). -/
  result  : Result
  deriving DecidableEq, Repr

/-- R200: the core raises no fault; no constructor. -/
inductive Fault where
  deriving DecidableEq, Repr

/-- What the model refuses. R200: no operation of this core is refused; an ill-formed configuration is. -/
inductive Refusal where
  /-- R9, R203, U1: raised by `construct`, before any step, for a PinMap whose indices coincide; safe. -/
  | illFormedPinMap
  /-- Raised by an arm of `exec` whose instruction has no meaning yet; safe. No arm raises it. -/
  | notModelled (mnemonic : String)
  deriving DecidableEq, Repr

/-- The machine right after RESET (R37, R230) of a Card constructed with PM_A and no image (DESIGN CHOICE, log 3), no host
call waiting (log 1) and nothing returned (log 2). -/
def State.reset : State :=
  { pins := Config.pmA
    masks := deriveMasks Config.pmA
    storage := Config.image
    spi := Spi.initial
    pending := []
    result := .nothing }

end Sys2Proof.Machine
end

