-- ==== Sys2Proof/Machine/Ops.lean ====
section
/-! DEFINITION. The shared operations over State that the meanings are built from. The core has no exception to take or to
return from (R200, R206), so there is no such operation here. -/

namespace Sys2Proof.Machine

/-- The state with `r` returned to the caller. -/
def State.answer (s : State) (r : Result) : State := { s with result := r }

/-- `port_out` (R72): the READ value, a function of the current state alone (R71, R180). -/
def State.portOut (s : State) : Byte := encodeLine s.masks s.spi.outputLine

/-- `ev_valid`, `ev_rx`, `ev_tx` (R72, R80): the exchange event the last operation emitted, if any. -/
def State.event? (s : State) : Option Event :=
  match s.result with
  | .event e => some e
  | _ => none

/-- R73: the pin word s,p,c,z of a WRITE of `portByte` in state `s`. -/
def State.pinWord (s : State) (portByte : Byte) : BitVec 4 :=
  let l := sampleLevels s.masks portByte
  BitVec.ofBool l.select ++ BitVec.ofBool s.spi.priorClock ++ BitVec.ofBool l.clock ++
    BitVec.ofBool (s.spi.bitIndex == 0#3)

/-- R120 ENQUEUE. -/
def State.enqueue (s : State) (bytes : List Byte) : State := { s with spi := s.spi.push bytes }

/-- R121 DEQUEUE_OR_DEFAULT: the state after it; the byte is `s.spi.popped`. -/
def State.dequeue (s : State) : State := { s with spi := s.spi.afterPop }

/-- R163: the refresh of a byte boundary. -/
def State.refresh (s : State) : State := { s with spi := s.spi.refresh }

/-- R133: clock bookkeeping. -/
def State.setPriorClock (s : State) (clockLevel : Bool) : State :=
  { s with spi := { s.spi with priorClock := clockLevel } }

/-- R135: present bit `bitIndex` of `outputBuffer` on the line. -/
def State.presentBit (s : State) : State :=
  { s with spi := { s.spi with outputLine := bitAt s.spi.outputBuffer s.spi.bitIndex } }

/-- R136, R137, step 5a: if the data-out level is active, set bit `i` of `inputBuffer`; it is never cleared. -/
def State.captureBit (s : State) (i : Idx3) (dataOut : Bool) : State :=
  if dataOut then { s with spi := { s.spi with inputBuffer := setBit s.spi.inputBuffer i } } else s

/-- R136, step 5b': the next bit of the byte. -/
def State.advance (s : State) : State := { s with spi := { s.spi with bitIndex := s.spi.bitIndex - 1#3 } }

/-- R137, step 5b: ready for the next byte. -/
def State.startByte (s : State) : State :=
  { s with spi := { s.spi with inputBuffer := clearedInput, bitIndex := firstBitIndex } }

/-- R161: the effect of CMD_40. -/
def State.cmd40Effect (s : State) : State := s.enqueue cmd40Response

/-- R162: the effect of CMD_NONE, none. -/
def State.cmdNoneEffect (s : State) : State := s

/-- R164 EVENT: `emit (rx, tx)`. -/
def State.emit (s : State) (rx tx : Byte) : State := s.answer (.event { rx := rx, tx := tx })

/-- R160 BOUNDARY: command effect, then refresh, then event. -/
def State.boundary (s : State) (rx tx : Byte) : State :=
  let s1 := if isCmd40 rx then s.cmd40Effect else s.cmdNoneEffect
  s1.refresh.emit rx tx

/-- R137: the end of a byte whose last bit is captured: the boundary on the completed byte and the byte sent, then the start
of the next byte. -/
def State.completeByte (s : State) : State := (s.boundary s.spi.inputBuffer s.spi.outputBuffer).startByte

/-- R100: the masks derived afresh from the PinMap. -/
def State.computeMasks (s : State) : State := { s with masks := deriveMasks s.pins }

end Sys2Proof.Machine
end

