-- ==== Sys2Proof/Machine/Commands.lean ====
section
/-! DEFINITION. The two commands (R161, R162). Each is the command effect alone; the refresh and the event belong to
BOUNDARY (R160). -/

namespace Sys2Proof.Machine

/-- R161 CMD_40: enqueue the fixed response. -/
def execCmd40 (s : State) : Host.Outcome State Fault Refusal := .next (s.cmd40Effect.answer .nothing)

/-- R162 CMD_NONE: no command effect, whatever the byte. -/
def execCmdNone (_rx : Byte) (s : State) : Host.Outcome State Fault Refusal := .next (s.cmdNoneEffect.answer .nothing)

end Sys2Proof.Machine
end

