-- ==== Sys2Proof/Machine/HostOps.lean ====
section
/-! DEFINITION. The host-visible operations: RESET (R230), WRITE (R130), NOP (R181), READ (R180). -/

namespace Sys2Proof.Machine

/-- R230 RESET, at any time (R231, D11, log 9): the masks from the PinMap, every field of `spi` set; PinMap and image stay;
no event. -/
def execReset (s : State) : Host.Outcome State Fault Refusal :=
  .next ({ s.computeMasks with spi := Spi.initial }.answer .nothing)

/-- R130 WRITE, in the order of §4.3 (R142): select test, levels and edges from the old `priorClock`, bookkeeping, the
rising action, the falling action. -/
def execWrite (portByte : Byte) (s : State) : Host.Outcome State Fault Refusal :=
  let l := sampleLevels s.masks portByte
  if l.select then .next (s.answer .nothing)
  else
    let up := rising s.spi.priorClock l.clock
    let down := falling s.spi.priorClock l.clock
    let s1 := (s.setPriorClock l.clock).answer .nothing
    let s2 := if up then s1.presentBit else s1
    if down then
      let s3 := s2.captureBit s2.spi.bitIndex l.dataOut
      if s2.spi.bitIndex == 0#3 then .next s3.completeByte else .next s3.advance
    else .next s2

/-- R181 NOP: the state holds; `ev_valid` = 0. -/
def execNop (s : State) : Host.Outcome State Fault Refusal := .next (s.answer .nothing)

/-- R180 READ: returns ENCODE of the line, whatever the select level; nothing else changes. -/
def execRead (s : State) : Host.Outcome State Fault Refusal := .next (s.answer (.byte s.portOut))

end Sys2Proof.Machine
end

