-- ==== Sys2Proof/Machine/Internal.lean ====
section
/-! DEFINITION. The internal operations (R79): invoked by RESET, WRITE and READ, never decoded from input. Each answers with
the result its rule names; the host cannot request one. -/

namespace Sys2Proof.Machine

/-- R100 MASKS: the five masks of the PinMap, which the Card keeps (R20, R36) and returns. -/
def execMasks (s : State) : Host.Outcome State Fault Refusal :=
  .next (s.computeMasks.answer (.masks (deriveMasks s.pins)))

/-- R101 SAMPLE: the three levels of a port byte; no state is written. -/
def execSample (portByte : Byte) (s : State) : Host.Outcome State Fault Refusal :=
  .next (s.answer (.levels (sampleLevels s.masks portByte)))

/-- R102 ENCODE: the READ value of a line level; no state is written. -/
def execEncode (outputLine : Bool) (s : State) : Host.Outcome State Fault Refusal :=
  .next (s.answer (.byte (encodeLine s.masks outputLine)))

/-- R120 ENQUEUE: the bytes at the tail. -/
def execEnqueue (bytes : List Byte) (s : State) : Host.Outcome State Fault Refusal :=
  .next ((s.enqueue bytes).answer .nothing)

/-- R121 DEQUEUE_OR_DEFAULT: returns the head, or 0x00 of an empty queue. -/
def execDequeueOrDefault (s : State) : Host.Outcome State Fault Refusal :=
  .next (s.dequeue.answer (.byte s.spi.popped))

/-- R160 BOUNDARY on the given pair; the caller clears `inputBuffer` and sets `bitIndex`. -/
def execBoundary (rx tx : Byte) (s : State) : Host.Outcome State Fault Refusal := .next (s.boundary rx tx)

/-- R164 EVENT: the pair is the output; no state is written. -/
def execEvent (rx tx : Byte) (s : State) : Host.Outcome State Fault Refusal := .next (s.emit rx tx)

end Sys2Proof.Machine
end

