-- ==== Sys2Proof/Machine/WriteClasses.lean ====
section
/-! DEFINITION. The six classes of WRITE (R131, R134 to R137), each by its own pseudocode, on any state. A WRITE decodes to a
class only in a state that matches the class's pin word (R74); run elsewhere, a class still does what its pseudocode says
(log 14). -/

namespace Sys2Proof.Machine

/-- R131 WRITE.DESEL: nothing, `priorClock` included (C4). -/
def execWriteDesel (s : State) : Host.Outcome State Fault Refusal := .next (s.answer .nothing)

/-- R134 WRITE.HOLD_LO: bookkeeping with the low level. -/
def execWriteHoldLo (s : State) : Host.Outcome State Fault Refusal := .next ((s.setPriorClock false).answer .nothing)

/-- R134 WRITE.HOLD_HI: bookkeeping with the high level. -/
def execWriteHoldHi (s : State) : Host.Outcome State Fault Refusal := .next ((s.setPriorClock true).answer .nothing)

/-- R135 WRITE.RISE: present the next output bit. -/
def execWriteRise (s : State) : Host.Outcome State Fault Refusal :=
  .next ((s.setPriorClock true).presentBit.answer .nothing)

/-- R136 WRITE.FALL_MID: capture a bit at the index in force, then advance. -/
def execWriteFallMid (dataOut : Bool) (s : State) : Host.Outcome State Fault Refusal :=
  .next (((s.setPriorClock false).captureBit s.spi.bitIndex dataOut).advance.answer .nothing)

/-- R137 WRITE.FALL_LAST: capture the last bit (bit 0 is the index in force), then complete the byte. -/
def execWriteFallLast (dataOut : Bool) (s : State) : Host.Outcome State Fault Refusal :=
  .next ((s.setPriorClock false).captureBit 0#3 dataOut).completeByte

end Sys2Proof.Machine
end

