-- ==== Sys2Proof/Machine/Dispatch.lean ====
section
/-! DEFINITION. One arm per operation. -/

namespace Sys2Proof.Machine

def exec (i : Instr) (s : State) : Host.Outcome State Fault Refusal :=
  match i with
  | .reset => Sys2Proof.Machine.execReset s
  | .write portByte => Sys2Proof.Machine.execWrite portByte s
  | .nop => Sys2Proof.Machine.execNop s
  | .read => Sys2Proof.Machine.execRead s
  | .writeDesel => Sys2Proof.Machine.execWriteDesel s
  | .writeHoldLo => Sys2Proof.Machine.execWriteHoldLo s
  | .writeHoldHi => Sys2Proof.Machine.execWriteHoldHi s
  | .writeRise => Sys2Proof.Machine.execWriteRise s
  | .writeFallMid dataOut => Sys2Proof.Machine.execWriteFallMid dataOut s
  | .writeFallLast dataOut => Sys2Proof.Machine.execWriteFallLast dataOut s
  | .cmd40 => Sys2Proof.Machine.execCmd40 s
  | .cmdNone rx => Sys2Proof.Machine.execCmdNone rx s
  | .masks => Sys2Proof.Machine.execMasks s
  | .sample portByte => Sys2Proof.Machine.execSample portByte s
  | .encode outputLine => Sys2Proof.Machine.execEncode outputLine s
  | .enqueue bytes => Sys2Proof.Machine.execEnqueue bytes s
  | .dequeueOrDefault => Sys2Proof.Machine.execDequeueOrDefault s
  | .boundary rx tx => Sys2Proof.Machine.execBoundary rx tx s
  | .event rx tx => Sys2Proof.Machine.execEvent rx tx s

end Sys2Proof.Machine
end

