-- ==== Sys2Proof/Machine/Fetch.lean ====
section
/-! DEFINITION. How step comes by its next operation, and how one is placed before it. -/

namespace Sys2Proof.Machine

/-- R72: the host's next call; with none waiting the strobe is `00` (D6, log 10), since nothing happens unless the host acts
(R181, R204). -/
def State.nextCall (s : State) : HostCall := s.pending.headD (.strobe 0b00#2 0x00#8)

/-- The state once the next call is taken from the host. -/
def State.takeCall (s : State) : State := { s with pending := s.pending.tail }

/-- The host makes `call` before whatever else it was about to do. -/
def State.present (s : State) (call : HostCall) : State := { s with pending := call :: s.pending }

/-- The port byte that shows a clock level and a data-out level, with the select level given (R85). -/
def State.showing (s : State) (select clock dataOut : Bool) : Byte :=
  portByteOf s.masks { select := select, dataOut := dataOut, clock := clock }

/-- The state in which the very next step performs the operation of `word` (log 15). A host call is presented. A pin word is
met by a WRITE that shows its `s`, `c` and data-out levels, in the state its `p` and `z` bits name. A command byte is met by
the WRITE that captures its last bit, its other bits being in `inputBuffer` already. -/
def State.facing (s : State) : OpWord → State
  | .host call => s.present call
  | .pins word d =>
    let c := { s.spi with
      priorClock := word.getLsbD 2
      bitIndex := if word.getLsbD 0 then 0#3 else if s.spi.bitIndex == 0#3 then firstBitIndex else s.spi.bitIndex }
    { s with spi := c }.present (.strobe 0b01#2 (s.showing (word.getLsbD 3) (word.getLsbD 1) d))
  | .command rx =>
    let c := { s.spi with priorClock := true, bitIndex := 0#3, inputBuffer := rx &&& 0xFE#8 }
    { s with spi := c }.present (.strobe 0b01#2 (s.showing false false (bitAt rx 0#3)))

end Sys2Proof.Machine
end

