-- ==== Sys2Proof/Machine/Step.lean ====
section
/-! DEFINITION. One step: one host call (R59, R72). Nothing is added around the operation: there is no program counter
(R33). -/

namespace Sys2Proof.Machine

/-- R72: take the host's next call, decode it, perform it. -/
def step (s : State) : Host.Outcome State Fault Refusal := exec (decodeCall s.nextCall) s.takeCall

/-- `s` about to perform the operation whose table number is `w` (log 15); `s` itself where the number is no word. -/
def State.withFetchWord (s : State) (nbits w : Nat) : State :=
  match tableWord nbits w with
  | .ok word => s.facing word
  | .error _ => s

end Sys2Proof.Machine
end

