-- ==== Sys2Proof/Machine/Construct.lean ====
section
/-! DEFINITION. Construction of a Card from its configuration, before any step (R9, R203, R230, R233). -/

namespace Sys2Proof.Machine

/-- R230, R233: the Card a host constructs from a PinMap and an image. An ill-formed configuration is refused here, before
any step (R9, R203, U1); the operations stay total on every PinMap (R9, D16, log 12). -/
def construct (pins : PinMap) (image : List Byte) : Host.Outcome State Fault Refusal :=
  if pins.wf then
    .next
      { pins := pins
        masks := deriveMasks pins
        storage := image
        spi := Spi.initial
        pending := []
        result := .nothing }
  else .refused .illFormedPinMap

end Sys2Proof.Machine
end

