-- ==== Sys2Proof/Safety.lean ====
section
/-! DEFINITION. The terms claims are stated in: a configured Card, a run of host calls, the edges a list of port bytes shows,
the trace notation of R85, and the invariant of the states a run reaches. -/

namespace Sys2Proof

/-- R74: the six rows of the pin table, mask and pattern. -/
def pinRows : List (BitVec 4 × BitVec 4) :=
  [(0b1000#4, 0b1000#4), (0b1110#4, 0b0000#4), (0b1110#4, 0b0110#4), (0b1110#4, 0b0010#4), (0b1111#4, 0b0100#4),
    (0b1111#4, 0b0101#4)]

/-- Two words that differ only in bits their table ignores: `wr` and `port_in` of a RESET (R72, D7, log 9), `port_in` of a NOP
(R72), the bits outside a pin row's mask and, but for the falling classes, the data-out level (R74). A command byte is taken
whole (R75); that two bytes of CMD_NONE count as different is the model's choice (log 14). -/
def OpWord.SameExaminedBits : OpWord → OpWord → Prop
  | .host (.strobe a p), .host (.strobe b q) =>
    (a.getLsbD 1 = true ∧ b.getLsbD 1 = true) ∨ (a = 0b00#2 ∧ b = 0b00#2) ∨ (a = 0b01#2 ∧ b = 0b01#2 ∧ p = q)
  | .host .read, .host .read => True
  | .pins v c, .pins w d => ∃ r ∈ pinRows, v &&& r.1 = r.2 ∧ w &&& r.1 = r.2 ∧ (r.1 = 0b1111#4 → c = d)
  | .command a, .command b => a = b
  | _, _ => False

end Sys2Proof

namespace Sys2Proof.Machine

/-- R9, R100: the Card was constructed with a well-formed PinMap and holds its masks. The premise of a claim that
speaks of the pins of a port byte; every other claim about a Card has `WF` alone (log 12). -/
structure Configured (s : State) : Prop where
  pins_wf : WF s.pins
  masks_eq : s.masks = deriveMasks s.pins

/-- R10, D4: the level of the port bit at position `i`. -/
def pinLevel (portByte : Byte) (i : Idx3) : Bool := portByte.getLsbD i.toNat

/-- R59: the host's calls made in order, each by one step; the results in the order they were returned. -/
def runCalls : List HostCall → State → Host.Outcome (State × List Result) Fault Refusal
  | [], s => .next (s, [])
  | c :: cs, s =>
    match step (s.present c) with
    | .next s' =>
      match runCalls cs s' with
      | .next (t, rs) => .next (t, s'.result :: rs)
      | .fault r => .fault r
      | .refused r => .refused r
    | .fault r => .fault r
    | .refused r => .refused r

/-- R85: a WRITE of each port byte in turn. -/
def writeCalls (ps : List Byte) : List HostCall := ps.map (HostCall.strobe 0b01#2)

/-- R80: the exchange event among an operation's results. -/
def Result.event? : Result → Option Event
  | .event e => some e
  | _ => none

/-- R180: the byte among an operation's results. -/
def Result.byte? : Result → Option Byte
  | .byte b => some b
  | _ => none

/-- The events of a run, in order. -/
def eventsOf (rs : List Result) : List Event := rs.filterMap Result.event?

/-- The bytes READ returned in a run, in order. -/
def readsOf (rs : List Result) : List Byte := rs.filterMap Result.byte?

/-- R132: an edge of the clock with the data-out level shown in the same port byte (R141). -/
structure Edge where
  rising  : Bool
  dataOut : Bool
  deriving DecidableEq, Repr

/-- R132, R14: the edges a sequence of port bytes shows after a selected WRITE with clock level `prior`. Deselected bytes
observe nothing. It speaks of the port alone, not of the Card. -/
def edges (pins : PinMap) : Bool → List Byte → List Edge
  | _, [] => []
  | prior, p :: ps =>
    if pinLevel p pins.select then edges pins prior ps
    else if pinLevel p pins.clock = prior then edges pins prior ps
    else { rising := pinLevel p pins.clock, dataOut := pinLevel p pins.dataOut } ::
      edges pins (pinLevel p pins.clock) ps

/-- The data-out levels of the falling edges among `es`, in order. -/
def fallingData (es : List Edge) : List Bool := (es.filter fun e => !e.rising).map Edge.dataOut

/-- R85 `UP d` and `DOWN d`: a selected WRITE that shows the clock level and the data level. -/
def clockCall (m : Masks) (clock dataOut : Bool) : HostCall :=
  .strobe 0b01#2 (portByteOf m { select := false, dataOut := dataOut, clock := clock })

/-- R85 `RST`. -/
def resetCall : HostCall := .strobe 0b10#2 0x00#8

/-- R85 `IDLE c d`: a deselected WRITE that shows the clock level and the data level. -/
def idleCall (m : Masks) (clock dataOut : Bool) : HostCall :=
  .strobe 0b01#2 (portByteOf m { select := true, dataOut := dataOut, clock := clock })

/-- R85 `BIT d`: clock high, READ, clock low. -/
def bitCalls (m : Masks) (d : Bool) : List HostCall := [clockCall m true d, .read, clockCall m false d]

/-- R85 `XFER hh`: one full byte exchange, bit 7 first. -/
def xferCalls (m : Masks) (h : Byte) : List HostCall :=
  [7, 6, 5, 4, 3, 2, 1, 0].flatMap fun k => bitCalls m (h.getLsbD k)

/-- What R137 and R160 leave after the last bit of a byte, `rx` being the byte completed by it: the command effect, the
refresh, the event with the old output byte, the cleared input buffer, bit index 7; the line stays. -/
def afterCompletedByte (s : State) (rx : Byte) : State :=
  let q := if rx = 0x40#8 then s.spi.outputQueue ++ [0xAA#8, 0xAB#8, 0xAC#8, 0xAD#8] else s.spi.outputQueue
  { s with
    spi :=
      { priorClock := false, bitIndex := 7#3, outputBuffer := q.headD 0x00#8, outputQueue := q.tail,
        outputLine := s.spi.outputLine, inputBuffer := 0x00#8 }
    result := .event { rx := rx, tx := s.spi.outputBuffer } }

/-- R122 (d): the byte values the card can hold or send. -/
def cardBytes : List Byte := [0x00#8, 0xFF#8, 0xAA#8, 0xAB#8, 0xAC#8, 0xAD#8]

/-- What holds of every state a run of a well-formed Card reaches. -/
structure Inv (s : State) : Prop where
  /-- R9, R20, R21: the configuration is well-formed and the masks are its own. -/
  configured : Configured s
  /-- R38: the bits not captured yet are clear. -/
  input_clear : ∀ k, k ≤ s.spi.bitIndex.toNat → s.spi.inputBuffer.getLsbD k = false
  /-- R164, R122 (d). -/
  buffer_known : s.spi.outputBuffer ∈ cardBytes
  /-- R122 (d). -/
  queue_known : ∀ b ∈ s.spi.outputQueue, b ∈ cardBytes
  /-- R242: while the clock is high the line shows bit `bitIndex` of the current byte. -/
  line_high : s.spi.priorClock = true → s.spi.outputLine = s.spi.outputBuffer.getLsbD s.spi.bitIndex.toNat
  /-- R242: after the falling edge of bits 7 to 1 it still shows the bit just sampled. -/
  line_low : s.spi.priorClock = false → s.spi.bitIndex ≠ 7#3 →
    s.spi.outputLine = s.spi.outputBuffer.getLsbD (s.spi.bitIndex.toNat + 1)

end Sys2Proof.Machine
end

