-- ==== Sys2Proof/Certificates/Slice0/Obligations.lean ====
section
/-! DEFINITION. The statements for the provers. The rules' literal values are written out here, not taken from the model.
Every claim about a Card has the premise `WF` of R9 (alone, or in `Configured`, `Inv` or a constructed Card); claims on words
and decoding have no Card in them. -/

open Sys2Proof Sys2Proof.Machine

/-- The state of R37 after RESET. Its `priorClock`, `outputLine` and `inputBuffer` are the spec's own decisions D1, D2, D3
(log 4, 5, 6), and that RESET works at any time and keeps PinMap and image is D11 (log 9): the model's choices. Premise `WF`
(R9). -/
def Obligations.ResetLeavesTheRule37State : Prop :=
  ∀ s : State, WF s.pins → exec .reset s = .next { s with
    masks :=
      { clock := 1#8 <<< s.pins.clock.toNat, dataOut := 1#8 <<< s.pins.dataOut.toNat,
        dataIn := 1#8 <<< s.pins.dataIn.toNat, select := 1#8 <<< s.pins.select.toNat,
        combined := 1#8 <<< s.pins.clock.toNat ||| 1#8 <<< s.pins.dataOut.toNat |||
          1#8 <<< s.pins.dataIn.toNat ||| 1#8 <<< s.pins.select.toNat }
    spi :=
      { priorClock := false, bitIndex := 7#3, outputBuffer := 0x00#8, outputQueue := [0x00#8, 0xFF#8],
        outputLine := false, inputBuffer := 0x00#8 }
    result := .nothing }

/-- `State.reset` is the Card constructed with its well-formed PinMap, and RESET leaves it so; nothing is pending. Its
PinMap, image, pending list and result are the model's choice (log 1, 2, 3), the three values of D1 to D3 the spec's (log 4,
5, 6). -/
def Obligations.StateResetIsTheResultOfReset : Prop :=
  WF State.reset.pins ∧ construct State.reset.pins [] = .next State.reset ∧
  exec .reset State.reset = .next State.reset ∧ State.reset.pending = [] ∧ State.reset.storage = [] ∧
  State.reset.spi =
    { priorClock := false, bitIndex := 7#3, outputBuffer := 0x00#8, outputQueue := [0x00#8, 0xFF#8],
      outputLine := false, inputBuffer := 0x00#8 }

/-- R29: the bit index is in 0 to 7 in every state, and 7 right after RESET and right after a completed byte. (That RESET may
come in any state is D11, log 9.) Premise `WF` (R9). -/
def Obligations.BitIndexIsSevenAfterResetAndAfterAByte : Prop :=
  (∀ s : State, WF s.pins → s.spi.bitIndex.toNat ≤ 7) ∧
  (∀ s : State, WF s.pins → ∃ t, exec .reset s = .next t ∧ t.spi.bitIndex = 7#3) ∧
  (∀ (s : State) (p : Byte), WF s.pins → p &&& s.masks.select = 0#8 → s.spi.priorClock = true → p &&& s.masks.clock = 0#8 →
    s.spi.bitIndex = 0#3 → ∃ t, exec (.write p) s = .next t ∧ t.spi.bitIndex = 7#3) ∧
  (∀ (s : State) (d : Bool), WF s.pins → s.spi.priorClock = true → s.spi.bitIndex = 0#3 →
    ∃ t, exec (.writeFallLast d) s = .next t ∧ t.spi.bitIndex = 7#3)

/-- R131: a WRITE whose select bit is set returns nothing and changes nothing, READ included. Premise `WF` (R9). -/
def Obligations.DeselectedWriteChangesNothing : Prop :=
  (∀ (s : State) (p : Byte), WF s.pins → p &&& s.masks.select ≠ 0#8 →
    exec (.write p) s = .next { s with result := .nothing } ∧
    exec .read { s with result := .nothing } = exec .read s) ∧
  (∀ s : State, WF s.pins → exec .writeDesel s = .next { s with result := .nothing }) ∧
  (∀ (w : BitVec 4) (d : Bool), w.getLsbD 3 = true → decode (.pins w d) = .writeDesel)

/-- R182: any sequence of deselected WRITEs, from any state, changes no field, emits no event and leaves READ as it was.
Premise `WF` (R9). -/
def Obligations.DeselectedSequenceIsIdle : Prop :=
  ∀ (s : State) (ps : List Byte), WF s.pins → (∀ p ∈ ps, p &&& s.masks.select ≠ 0#8) →
    ∃ t rs, runCalls (writeCalls ps) s = .next (t, rs) ∧ { t with result := s.result } = s ∧
      eventsOf rs = [] ∧ exec .read t = exec .read s

/-- R134: a selected WRITE with the clock level unchanged leaves the state as it was, whatever the data-out level. Premise
`WF` (R9). -/
def Obligations.HoldWriteChangesNothing : Prop :=
  (∀ (s : State) (p : Byte), WF s.pins → p &&& s.masks.select = 0#8 → (p &&& s.masks.clock != 0#8) = s.spi.priorClock →
    exec (.write p) s = .next { s with result := .nothing }) ∧
  (∀ s : State, WF s.pins → s.spi.priorClock = false → exec .writeHoldLo s = .next { s with result := .nothing }) ∧
  (∀ s : State, WF s.pins → s.spi.priorClock = true → exec .writeHoldHi s = .next { s with result := .nothing }) ∧
  (∀ (z d : Bool), decode (.pins (0b000#3 ++ BitVec.ofBool z) d) = .writeHoldLo ∧
    decode (.pins (0b011#3 ++ BitVec.ofBool z) d) = .writeHoldHi)

/-- R135: a selected rising edge sets `priorClock`, puts bit `bitIndex` of `outputBuffer` on the line, and nothing else.
Premise `WF` (R9). -/
def Obligations.RisingEdgePresentsTheBit : Prop :=
  (∀ (s : State) (p : Byte), WF s.pins → p &&& s.masks.select = 0#8 → s.spi.priorClock = false → p &&& s.masks.clock ≠ 0#8 →
    exec (.write p) s = .next { s with
      spi := { s.spi with priorClock := true, outputLine := s.spi.outputBuffer.getLsbD s.spi.bitIndex.toNat }
      result := .nothing }) ∧
  (∀ s : State, WF s.pins → s.spi.priorClock = false → exec .writeRise s = .next { s with
      spi := { s.spi with priorClock := true, outputLine := s.spi.outputBuffer.getLsbD s.spi.bitIndex.toNat }
      result := .nothing }) ∧
  (∀ (z d : Bool), decode (.pins (0b001#3 ++ BitVec.ofBool z) d) = .writeRise)

/-- R136: a selected falling edge inside a byte ORs the data-out level into bit `bitIndex` and counts down by one, without
underflow; the line, the output byte and the queue stay. Premise `WF` (R9). -/
def Obligations.FallingEdgeInsideAByteCapturesABit : Prop :=
  (∀ (s : State) (p : Byte), WF s.pins → p &&& s.masks.select = 0#8 → s.spi.priorClock = true → p &&& s.masks.clock = 0#8 →
    s.spi.bitIndex ≠ 0#3 →
    exec (.write p) s = .next { s with
      spi := { s.spi with
        priorClock := false
        inputBuffer := if p &&& s.masks.dataOut ≠ 0#8 then s.spi.inputBuffer ||| 1#8 <<< s.spi.bitIndex.toNat
          else s.spi.inputBuffer
        bitIndex := s.spi.bitIndex - 1#3 }
      result := .nothing } ∧
    (s.spi.bitIndex - 1#3).toNat + 1 = s.spi.bitIndex.toNat) ∧
  (∀ (s : State) (d : Bool), WF s.pins → s.spi.priorClock = true → s.spi.bitIndex ≠ 0#3 →
    exec (.writeFallMid d) s = .next { s with
      spi := { s.spi with
        priorClock := false
        inputBuffer := if d then s.spi.inputBuffer ||| 1#8 <<< s.spi.bitIndex.toNat else s.spi.inputBuffer
        bitIndex := s.spi.bitIndex - 1#3 }
      result := .nothing }) ∧
  (∀ d : Bool, decode (.pins 0b0100#4 d) = .writeFallMid d)

/-- R137: a selected falling edge at bit index 0 captures bit 0 and completes the byte. Premise `WF` (R9). -/
def Obligations.FallingEdgeAtBitZeroCompletesTheByte : Prop :=
  (∀ (s : State) (p : Byte), WF s.pins → p &&& s.masks.select = 0#8 → s.spi.priorClock = true → p &&& s.masks.clock = 0#8 →
    s.spi.bitIndex = 0#3 →
    exec (.write p) s = .next (afterCompletedByte s
      (if p &&& s.masks.dataOut ≠ 0#8 then s.spi.inputBuffer ||| 0x01#8 else s.spi.inputBuffer))) ∧
  (∀ (s : State) (d : Bool), WF s.pins → s.spi.priorClock = true → s.spi.bitIndex = 0#3 →
    exec (.writeFallLast d) s = .next (afterCompletedByte s
      (if d then s.spi.inputBuffer ||| 0x01#8 else s.spi.inputBuffer))) ∧
  (∀ d : Bool, decode (.pins 0b0101#4 d) = .writeFallLast d)

/-- R160: BOUNDARY applies the command, refreshes the output byte from the queue the command left, and returns the event;
`bitIndex`, `inputBuffer`, `priorClock` and `outputLine` stay. Premise `WF` (R9). -/
def Obligations.BoundaryAppliesCommandThenRefreshesThenEmits : Prop :=
  ∀ (s : State) (rx tx : Byte), WF s.pins →
    let q := if rx = 0x40#8 then s.spi.outputQueue ++ [0xAA#8, 0xAB#8, 0xAC#8, 0xAD#8] else s.spi.outputQueue
    exec (.boundary rx tx) s = .next { s with
      spi := { s.spi with outputBuffer := q.headD 0x00#8, outputQueue := q.tail }
      result := .event { rx := rx, tx := tx } }

/-- R161: CMD_40 appends the four response bytes and changes nothing else; it is the command of the byte 0x40 and of no
other. Premise `WF` (R9). -/
def Obligations.Cmd40EnqueuesTheResponse : Prop :=
  (∀ s : State, WF s.pins → exec .cmd40 s = .next { s with
    spi := { s.spi with outputQueue := s.spi.outputQueue ++ [0xAA#8, 0xAB#8, 0xAC#8, 0xAD#8] }
    result := .nothing }) ∧
  (∀ rx : Byte, decode (.command rx) = .cmd40 ↔ rx = 0x40#8)

/-- R162: every other byte is CMD_NONE, which changes nothing; the boundary of such a byte still refreshes and still emits.
Premise `WF` (R9). -/
def Obligations.CmdNoneHasNoEffect : Prop :=
  (∀ (s : State) (rx : Byte), WF s.pins → exec (.cmdNone rx) s = .next { s with result := .nothing }) ∧
  (∀ rx : Byte, rx ≠ 0x40#8 → decode (.command rx) = .cmdNone rx) ∧
  (∀ (s : State) (rx tx : Byte), WF s.pins → rx ≠ 0x40#8 → exec (.boundary rx tx) s = .next { s with
    spi := { s.spi with outputBuffer := s.spi.outputQueue.headD 0x00#8, outputQueue := s.spi.outputQueue.tail }
    result := .event { rx := rx, tx := tx } })

/-- R120: ENQUEUE appends at the tail, in argument order, and writes the queue only; the empty sequence changes nothing. It
never fails, however long the queue (no bound: D5, log 8). Premise `WF` (R9). -/
def Obligations.EnqueueAppendsAtTheTail : Prop :=
  ∀ (s : State) (bytes : List Byte), WF s.pins →
    exec (.enqueue bytes) s = .next { s with
      spi := { s.spi with outputQueue := s.spi.outputQueue ++ bytes }
      result := .nothing } ∧
    exec (.enqueue []) s = .next { s with result := .nothing }

/-- R121: DEQUEUE_OR_DEFAULT returns and removes the head; of an empty queue it returns 0x00 and leaves it empty. Premise
`WF` (R9). -/
def Obligations.DequeueReturnsHeadOrZero : Prop :=
  (∀ s : State, WF s.pins → s.spi.outputQueue = [] → exec .dequeueOrDefault s = .next { s with result := .byte 0x00#8 }) ∧
  (∀ (s : State) (b : Byte) (rest : List Byte), WF s.pins → s.spi.outputQueue = b :: rest →
    exec .dequeueOrDefault s = .next { s with
      spi := { s.spi with outputQueue := rest }
      result := .byte b })

/-- R122 (b), (c): at a boundary the queue grows by three for 0x40, else shrinks by one or stays empty. Premise `WF` (R9). -/
def Obligations.BoundaryChangesQueueLength : Prop :=
  ∀ (s : State) (rx tx : Byte), WF s.pins → ∃ t, exec (.boundary rx tx) s = .next t ∧
    t.spi.outputQueue.length =
      if rx = 0x40#8 then s.spi.outputQueue.length + 3 else s.spi.outputQueue.length - 1

/-- R187, with its premise (C10): from an empty queue a boundary loads 0x00, unless the byte is 0x40; then it loads 0xAA.
Premise `WF` (R9). -/
def Obligations.EmptyQueueLoadsZeroAtABoundary : Prop :=
  ∀ (s : State) (rx tx : Byte), WF s.pins → s.spi.outputQueue = [] →
    ∃ t, exec (.boundary rx tx) s = .next t ∧ (rx ≠ 0x40#8 → t.spi.outputBuffer = 0x00#8) ∧
      (rx = 0x40#8 → t.spi.outputBuffer = 0xAA#8)

/-- R164: EVENT returns the pair and writes nothing; a WRITE returns an event exactly when it completes a byte. Premise `WF`
(R9). -/
def Obligations.EventIsEmittedExactlyAtAByteBoundary : Prop :=
  (∀ (s : State) (rx tx : Byte), WF s.pins →
    exec (.event rx tx) s = .next { s with result := .event { rx := rx, tx := tx } }) ∧
  (∀ (s : State) (p : Byte), WF s.pins → ∃ t, exec (.write p) s = .next t ∧
    ((∃ e, t.result = .event e) ↔ p &&& s.masks.select = 0#8 ∧ s.spi.priorClock = true ∧ p &&& s.masks.clock = 0#8 ∧
      s.spi.bitIndex = 0#3) ∧
    (t.result = .nothing ∨ ∃ e, t.result = .event e))

/-- MASKS (R100) gives the byte with the one bit of each position and the OR of the four; none is zero, and the OR has
exactly four bits. That the mask of position i has weight 2^i is the spec's decision D4 (log 7). Premise `WF` (R9). -/
def Obligations.MasksAreTheSingleBits : Prop :=
  ∀ s : State, WF s.pins → ∃ m : Masks, exec .masks s = .next { s with masks := m, result := .masks m } ∧
    m.clock = 1#8 <<< s.pins.clock.toNat ∧ m.dataOut = 1#8 <<< s.pins.dataOut.toNat ∧
    m.dataIn = 1#8 <<< s.pins.dataIn.toNat ∧ m.select = 1#8 <<< s.pins.select.toNat ∧
    m.combined = m.clock ||| m.dataOut ||| m.dataIn ||| m.select ∧
    m.clock ≠ 0#8 ∧ m.dataOut ≠ 0#8 ∧ m.dataIn ≠ 0#8 ∧ m.select ≠ 0#8 ∧
    ((List.range 8).filter fun k => m.combined.getLsbD k).length = 4

/-- R101: SAMPLE tests one bit per level and writes nothing. Premise `WF` (R9). -/
def Obligations.SampleTestsThreeMasks : Prop :=
  ∀ (s : State) (p : Byte), WF s.pins → exec (.sample p) s = .next { s with
    result := .levels
      { select := p &&& s.masks.select != 0#8, dataOut := p &&& s.masks.dataOut != 0#8,
        clock := p &&& s.masks.clock != 0#8 } }

/-- Of a configured Card, SAMPLE gives the port bits at the three pin positions. That port bit i has weight 2^i is the spec's
decision D4 (log 7). -/
def Obligations.SampleReadsThePinPositions : Prop :=
  ∀ (s : State) (p : Byte), Configured s → exec (.sample p) s = .next { s with
    result := .levels
      { select := p.getLsbD s.pins.select.toNat, dataOut := p.getLsbD s.pins.dataOut.toNat,
        clock := p.getLsbD s.pins.clock.toNat } }

/-- R102: ENCODE gives `dataInMask` for a high line and 0x00 for a low one, and writes nothing. Premise `WF` (R9). -/
def Obligations.EncodeGivesTheDataInMask : Prop :=
  ∀ s : State, WF s.pins → exec (.encode true) s = .next { s with result := .byte s.masks.dataIn } ∧
    exec (.encode false) s = .next { s with result := .byte 0x00#8 }

/-- READ (R71, R180) returns the byte whose bit at `pins.dataIn` is the line and whose other bits are 0, so 0x00 or
`dataInMask`; nothing else changes, and the value does not depend on the select level. The numbering of port bits is D4 (log
7). -/
def Obligations.ReadShowsOnlyTheLine : Prop :=
  ∀ s : State, Configured s → ∃ b : Byte, exec .read s = .next { s with result := .byte b } ∧ s.portOut = b ∧
    (∀ k, k < 8 → b.getLsbD k = (decide (k = s.pins.dataIn.toNat) && s.spi.outputLine)) ∧
    (b = 0x00#8 ∨ b = s.masks.dataIn)

/-- R57, R183: two READs with nothing between return the same byte, and neither changes the Card. Premise `WF` (R9). -/
def Obligations.ReadIsIdempotent : Prop :=
  ∀ s : State, WF s.pins → ∃ t b, exec .read s = .next t ∧ t = { s with result := .byte b } ∧ exec .read t = .next t

/-- NOP holds the state and returns nothing. NOP is the spec's own operation (D6, log 10). Premise `WF` (R9). -/
def Obligations.NopHoldsTheState : Prop :=
  ∀ s : State, WF s.pins → exec .nop s = .next { s with result := .nothing }

/-- A WRITE does what the class its pin word decodes to does, in every state. The partition into classes is the spec's own
(D17). Premise `WF` (R9). -/
def Obligations.WriteRunsItsDecodedClass : Prop :=
  ∀ (s : State) (p : Byte), WF s.pins →
    exec (.write p) s = exec (decode (.pins (s.pinWord p) (p &&& s.masks.dataOut != 0#8))) s

/-- R74: of the six rows (mask, pattern) exactly one matches each pin word, and the decoder gives that row's class. -/
def Obligations.ExactlyOnePinRowMatches : Prop :=
  ∀ (w : BitVec 4) (d : Bool),
    ([(0b1000#4, 0b1000#4, Instr.writeDesel), (0b1110#4, 0b0000#4, .writeHoldLo), (0b1110#4, 0b0110#4, .writeHoldHi),
      (0b1110#4, 0b0010#4, .writeRise), (0b1111#4, 0b0100#4, .writeFallMid d),
      (0b1111#4, 0b0101#4, .writeFallLast d)].filter fun r => w &&& r.1 == r.2.1).map (fun r => r.2.2) =
      [decode (.pins w d)]

/-- The words of R72, R74 and R76, written out, decode to the operations they stand for. The strobe word is the spec's own
(D6, log 10). -/
def Obligations.WrittenOutWordsDecode : Prop :=
  decode (.host (.strobe 0b10#2 0x5A#8)) = .reset ∧ decode (.host (.strobe 0b11#2 0x5A#8)) = .reset ∧
  decode (.host (.strobe 0b01#2 0x5A#8)) = .write 0x5A#8 ∧ decode (.host (.strobe 0b00#2 0x5A#8)) = .nop ∧
  decode (.pins 0b1110#4 true) = .writeDesel ∧ decode (.pins 0b0001#4 true) = .writeHoldLo ∧
  decode (.pins 0b0111#4 true) = .writeHoldHi ∧ decode (.pins 0b0010#4 true) = .writeRise ∧
  decode (.pins 0b0100#4 true) = .writeFallMid true ∧ decode (.pins 0b0101#4 false) = .writeFallLast false ∧
  decode (.command 0b01000000#8) = .cmd40 ∧ decode (.command 0b11000000#8) = .cmdNone 0xC0#8

/-- Decoding the word of a well-formed operation gives the operation back, every operand at every value, for every operation
that has a word here; those without one are the seven internal operations (R79). READ is among those that have one by the
model's choice (log 11: its word is the call `read()`, log 1); in the spec it has no strobe and no encoding (R72, R180). That
CMD_NONE keeps its byte is the model's choice too (log 14). -/
def Obligations.DecodeOfEncodeIsTheOperation : Prop :=
  ∀ i : Instr, i.wf = true →
    (∀ w, encode i = some w → decode w = i) ∧
    (encode i = none ↔ i = .masks ∨ (∃ p, i = .sample p) ∨ (∃ l, i = .encode l) ∨ (∃ bs, i = .enqueue bs) ∨
      i = .dequeueOrDefault ∨ (∃ rx tx, i = .boundary rx tx) ∨ (∃ rx tx, i = .event rx tx))

/-- Every word of the three tables decodes to a well-formed operation, whose own word decodes to it again. Two words have one
operation exactly when only bits their table ignores differ: two RESET words share bit `rst`, two NOP words are both 00, two
WRITE words are equal with their port byte, two pin words are equal under their row's mask (and the data-out level for the
falling rows), two command words are equal. That 10 and 11 are one RESET whatever `wr` and `port_in` is the spec's own
decision D7 (log 9), the strobe word itself its decision D6 (log 10). That command words are equal is the model's choice of
log 14: in R76 all 255 bytes other than 0x40 are one row, CMD_NONE, mask 0x00. READ's word is the host's call, the model's
choice of log 1 and 11. -/
def Obligations.EveryWordHasAWellFormedOperation : Prop :=
  (∀ w : OpWord, (decode w).wf = true ∧ ∃ w', encode (decode w) = some w' ∧ decode w' = decode w) ∧
  (∀ w w' : OpWord, decode w = decode w' ↔ w.SameExaminedBits w')

/-- R85, R101: the port byte that shows given levels through a well-formed PinMap samples back to them. Premise `WF` (R9). -/
def Obligations.PortByteShowsTheLevels : Prop :=
  ∀ (pins : PinMap) (l : Levels), WF pins → sampleLevels (deriveMasks pins) (portByteOf (deriveMasks pins) l) = l

/-- R70: two port bytes that agree on the select, clock and data-out bits have one effect; the other five bits, `dataIn`
among them, are ignored, and so is the combined mask (R105). Premise `WF` (R9). -/
def Obligations.OnlyThreePortBitsMatter : Prop :=
  (∀ (s : State) (p q : Byte), Configured s → p.getLsbD s.pins.select.toNat = q.getLsbD s.pins.select.toNat →
    p.getLsbD s.pins.clock.toNat = q.getLsbD s.pins.clock.toNat →
    p.getLsbD s.pins.dataOut.toNat = q.getLsbD s.pins.dataOut.toNat → exec (.write p) s = exec (.write q) s) ∧
  (∀ (s : State) (p m : Byte), WF s.pins → ∃ t, exec (.write p) s = .next t ∧
    exec (.write p) { s with masks := { s.masks with combined := m, dataIn := m } } =
      .next { t with masks := { s.masks with combined := m, dataIn := m } })

/-- R139: which class of WRITE may change which field; configuration, image and pending calls never change. Premise `WF`
(R9). -/
def Obligations.WriteChangesOnlyWhatItsClassMay : Prop :=
  ∀ (s t : State) (p : Byte), WF s.pins → exec (.write p) s = .next t →
    let c := decode (.pins (s.pinWord p) (p &&& s.masks.dataOut != 0#8))
    t.pins = s.pins ∧ t.masks = s.masks ∧ t.storage = s.storage ∧ t.pending = s.pending ∧
    (t.spi.outputLine ≠ s.spi.outputLine → c = .writeRise) ∧
    (t.spi.bitIndex ≠ s.spi.bitIndex ∨ t.spi.inputBuffer ≠ s.spi.inputBuffer →
      ∃ d, c = .writeFallMid d ∨ c = .writeFallLast d) ∧
    (t.spi.outputBuffer ≠ s.spi.outputBuffer ∨ t.spi.outputQueue ≠ s.spi.outputQueue → ∃ d, c = .writeFallLast d) ∧
    (t.spi.priorClock ≠ s.spi.priorClock → (c = .writeRise ∧ t.spi.priorClock = true) ∨
      ((∃ d, c = .writeFallMid d ∨ c = .writeFallLast d) ∧ t.spi.priorClock = false)) ∧
    (c = .writeDesel ∨ c = .writeHoldLo ∨ c = .writeHoldHi → t.spi = s.spi)

/-- R138: the edges WRITE acts on alternate. A rising one is taken only with `priorClock` low and leaves it high, a falling
one only with it high and leaves it low, and any other WRITE leaves it alone. Premise `WF` (R9). -/
def Obligations.EdgesAlternate : Prop :=
  ∀ (s : State) (p : Byte), WF s.pins → ∃ t, exec (.write p) s = .next t ∧
    let c := decode (.pins (s.pinWord p) (p &&& s.masks.dataOut != 0#8))
    (c = .writeRise → s.spi.priorClock = false ∧ t.spi.priorClock = true) ∧
    ((∃ d, c = .writeFallMid d ∨ c = .writeFallLast d) → s.spi.priorClock = true ∧ t.spi.priorClock = false) ∧
    (c = .writeDesel ∨ c = .writeHoldLo ∨ c = .writeHoldHi → t.spi.priorClock = s.spi.priorClock)

/-- R55: framing is by count alone. From bit index 7, after any WRITEs that show F falling edges, the bit index is 7 - F mod
8 and F / 8 events were emitted. -/
def Obligations.FramingCountsFallingEdges : Prop :=
  ∀ (s : State) (ps : List Byte), Configured s → s.spi.bitIndex = 7#3 →
    ∃ t rs, runCalls (writeCalls ps) s = .next (t, rs) ∧
      t.spi.bitIndex.toNat = 7 - (fallingData (edges s.pins s.spi.priorClock ps)).length % 8 ∧
      (eventsOf rs).length = (fallingData (edges s.pins s.spi.priorClock ps)).length / 8

/-- R184: from bit index 7 and a clear input buffer, WRITEs that show eight falling edges, with anything interleaved, hand
the boundary the byte whose bit k is the data-out level of falling edge 7 - k; the input buffer is clear again. (Port bits
are numbered as in D4, log 7.) -/
def Obligations.ReceivedByteIsTheEightCapturedLevels : Prop :=
  ∀ (s : State) (ps : List Byte) (d7 d6 d5 d4 d3 d2 d1 d0 : Bool), Configured s → s.spi.bitIndex = 7#3 →
    s.spi.inputBuffer = 0x00#8 →
    fallingData (edges s.pins s.spi.priorClock ps) = [d7, d6, d5, d4, d3, d2, d1, d0] →
    ∃ t rs e, runCalls (writeCalls ps) s = .next (t, rs) ∧ eventsOf rs = [e] ∧
      e.rx.toNat = d7.toNat * 128 + d6.toNat * 64 + d5.toNat * 32 + d4.toNat * 16 + d3.toNat * 8 + d2.toNat * 4 +
        d1.toNat * 2 + d0.toNat ∧
      t.spi.inputBuffer = 0x00#8 ∧ t.spi.bitIndex = 7#3

/-- R185, with the premise that the clock was low at the start (as in R140 and R189; without it the first edge is a falling
one, log 19): the k-th rising edge puts bit 7 - k of the output byte on the line, whatever the falling edges captured. -/
def Obligations.RisingEdgesShowTheOutputByte : Prop :=
  ∀ (s : State) (ps : List Byte) (p : Byte) (k : Nat), Configured s → s.spi.bitIndex = 7#3 →
    s.spi.priorClock = false → k ≤ 7 → (edges s.pins false ps).length = 2 * k →
    p.getLsbD s.pins.select.toNat = false → p.getLsbD s.pins.clock.toNat = true →
    ∃ t rs, runCalls (writeCalls (ps ++ [p])) s = .next (t, rs) ∧
      t.spi.outputLine = s.spi.outputBuffer.getLsbD (7 - k)

/-- R186: when a byte 0x40 completes with the queue empty, its event carries the in-flight byte, and the bytes of the next
four events, whatever the host does, are 0xAA, 0xAB, 0xAC, 0xAD (a run with fewer events shows the first of them). Premise
`WF` (R9). -/
def Obligations.CommandWithEmptyQueueIsAnsweredAtOnce : Prop :=
  ∀ (s : State) (d : Bool) (ps : List Byte), WF s.pins → s.spi.priorClock = true → s.spi.bitIndex = 0#3 →
    s.spi.outputQueue = [] → (if d then s.spi.inputBuffer ||| 0x01#8 else s.spi.inputBuffer) = 0x40#8 →
    ∃ t u rs, exec (.writeFallLast d) s = .next t ∧ t.result = .event { rx := 0x40#8, tx := s.spi.outputBuffer } ∧
      runCalls (writeCalls ps) t = .next (u, rs) ∧
      ((eventsOf rs).map Event.tx).take 4 = [0xAA#8, 0xAB#8, 0xAC#8, 0xAD#8].take (eventsOf rs).length

/-- R166: with bytes queued when a 0x40 completes, the card sends those bytes first, then the response. Premise `WF` (R9). -/
def Obligations.ResponseWaitsBehindQueuedBytes : Prop :=
  ∀ (s : State) (d : Bool) (ps : List Byte), WF s.pins → s.spi.priorClock = true → s.spi.bitIndex = 0#3 →
    (if d then s.spi.inputBuffer ||| 0x01#8 else s.spi.inputBuffer) = 0x40#8 →
    ∃ t u rs, exec (.writeFallLast d) s = .next t ∧ runCalls (writeCalls ps) t = .next (u, rs) ∧
      ((eventsOf rs).map Event.tx).take (s.spi.outputQueue.length + 4) =
        (s.spi.outputQueue ++ [0xAA#8, 0xAB#8, 0xAC#8, 0xAD#8]).take (eventsOf rs).length

/-- R165, R188: after RESET the first three events of any run carry 0x00, 0x00, 0xFF, and while no 0x40 has been received
every later one carries 0x00. It holds whatever the values of D1 to D3. Premise `WF` (R9). -/
def Obligations.PowerOnBytesComeFirst : Prop :=
  ∀ (s r : State) (ps : List Byte), WF s.pins → exec .reset s = .next r →
    ∃ t rs, runCalls (writeCalls ps) r = .next (t, rs) ∧
      ((eventsOf rs).map Event.tx).take 3 = [0x00#8, 0x00#8, 0xFF#8].take (eventsOf rs).length ∧
      ((∀ e ∈ eventsOf rs, e.rx ≠ 0x40#8) → ∀ e ∈ (eventsOf rs).drop 3, e.tx = 0x00#8)

/-- R189: one full exchange `XFER hh` from the start of a byte with the clock low. The eight READs show the output byte, bit
7 first; the one event, `(hh, B)`, comes with the sixteenth WRITE; the state is ready for the next byte. -/
def Obligations.FullDuplexExchange : Prop :=
  ∀ (s : State) (h : Byte), Configured s → s.spi.bitIndex = 7#3 → s.spi.inputBuffer = 0x00#8 →
    s.spi.priorClock = false →
    let q := if h = 0x40#8 then s.spi.outputQueue ++ [0xAA#8, 0xAB#8, 0xAC#8, 0xAD#8] else s.spi.outputQueue
    ∃ rs, runCalls (xferCalls s.masks h) s = .next ({ s with
        spi :=
          { priorClock := false, bitIndex := 7#3, outputBuffer := q.headD 0x00#8, outputQueue := q.tail,
            outputLine := s.spi.outputBuffer.getLsbD 0, inputBuffer := 0x00#8 }
        result := .event { rx := h, tx := s.spi.outputBuffer } }, rs) ∧
      readsOf rs = [7, 6, 5, 4, 3, 2, 1, 0].map
        (fun k => if s.spi.outputBuffer.getLsbD k then 1#8 <<< s.pins.dataIn.toNat else 0x00#8) ∧
      eventsOf rs = [{ rx := h, tx := s.spi.outputBuffer }] ∧ rs.length = 24 ∧
      rs.getLast? = some (.event { rx := h, tx := s.spi.outputBuffer })

/-- R240: across a deselected interval the clock is compared with the last selected level. After any deselected WRITEs, a
WRITE does exactly what it would have done at once. Premise `WF` (R9). -/
def Obligations.ReselectionComparesWithTheStaleClock : Prop :=
  ∀ (s : State) (ps : List Byte) (p : Byte), WF s.pins → (∀ q ∈ ps, q &&& s.masks.select ≠ 0#8) →
    ∃ t rs, exec (.write p) s = .next t ∧ runCalls (writeCalls (ps ++ [p])) s = .next (t, rs) ∧
      eventsOf rs = t.event?.toList

/-- The invariant holds at reset. It rests on the model's PinMap (log 3) and on D1 to D3 (log 4, 5, 6). -/
def Obligations.ResetStateMeetsTheInvariant : Prop := Inv State.reset

/-- Every step keeps the invariant, from every state that meets it: masks of a well-formed PinMap; uncaptured input bits
clear (R38); only the six byte values in buffer and queue (R122 d); the line shows the current bit while the clock is high
and the bit just sampled after it falls (R242). -/
def Obligations.EveryStepKeepsTheInvariant : Prop :=
  ∀ s t : State, Inv s → step s = .next t → Inv t

/-- A step performs the host's next call: the operation it decodes to, with the call taken off the list; with no call
waiting, NOP (D6, log 1, 10). Premise `WF` (R9). -/
def Obligations.StepPerformsTheNextCall : Prop :=
  (∀ (s : State) (c : HostCall) (cs : List HostCall), WF s.pins → s.pending = c :: cs →
    step s = exec (decode (.host c)) { s with pending := cs }) ∧
  (∀ s : State, WF s.pins → s.pending = [] → step s = exec .nop s)

/-- R20, R21, R31: no operation changes the PinMap, the image or the calls still to come; only MASKS and RESET write the
masks, and on a configured Card they write the value that stands there. Premise `WF` (R9). -/
def Obligations.ConfigurationNeverChanges : Prop :=
  ∀ (i : Instr) (s t : State), WF s.pins → exec i s = .next t →
    t.pins = s.pins ∧ t.storage = s.storage ∧ t.pending = s.pending ∧
    (i ≠ .masks → i ≠ .reset → t.masks = s.masks) ∧ (Configured s → t.masks = s.masks)

/-- R31, D10: no operation reads the image or writes it (RESET leaves it by D11, log 9): run with another image, each does
the same and leaves that image. Premise `WF` (R9). -/
def Obligations.StorageIsNeitherReadNorWritten : Prop :=
  ∀ (i : Instr) (s : State) (image : List Byte), WF s.pins → ∃ t, exec i s = .next t ∧ t.storage = s.storage ∧
    exec i { s with storage := image } = .next { t with storage := image }

/-- R22 to R27, R36: what the operations other than WRITE leave of the protocol state. READ, NOP, MASKS, SAMPLE, ENCODE,
EVENT and CMD_NONE leave all of it; ENQUEUE, DEQUEUE_OR_DEFAULT and CMD_40 all but the queue; BOUNDARY all but the queue and
the output byte. The image, the PinMap and the pending calls stay in each. Premise `WF` (R9). -/
def Obligations.OtherOperationsFrame : Prop :=
  ∀ (i : Instr) (s t : State), WF s.pins → exec i s = .next t →
    t.pins = s.pins ∧ t.storage = s.storage ∧ t.pending = s.pending ∧
    (i = .read ∨ i = .nop ∨ i = .masks ∨ (∃ p, i = .sample p) ∨ (∃ l, i = .encode l) ∨ (∃ rx tx, i = .event rx tx) ∨
      (∃ rx, i = .cmdNone rx) → t.spi = s.spi) ∧
    ((∃ bs, i = .enqueue bs) ∨ i = .dequeueOrDefault ∨ i = .cmd40 →
      t.masks = s.masks ∧ { t.spi with outputQueue := s.spi.outputQueue } = s.spi) ∧
    ((∃ rx tx, i = .boundary rx tx) →
      t.masks = s.masks ∧ { t.spi with outputQueue := s.spi.outputQueue, outputBuffer := s.spi.outputBuffer } = s.spi)

/-- R200: no operation and no step faults or is refused. Premise `WF` (R9). -/
def Obligations.EveryOperationCompletes : Prop :=
  (∀ (i : Instr) (s : State), WF s.pins → ∃ t, exec i s = .next t) ∧ ∀ s : State, WF s.pins → ∃ t, step s = .next t

/-- RESET wins over a WRITE in the same step, and the port byte is ignored (the spec's decision D7, log 9). Premise `WF`
(R9). -/
def Obligations.ResetWinsOverWrite : Prop :=
  ∀ (s : State) (wr : Bool) (p : Byte), WF s.pins →
    step (s.present (.strobe (0b1#1 ++ BitVec.ofBool wr) p)) = exec .reset s

/-- The state the model places a pin word before (log 15) shows exactly that word, and its step is the class of the word. -/
def Obligations.PlacedPinWordIsPerformed : Prop :=
  ∀ (s : State) (w : BitVec 4) (d : Bool), Configured s →
    (s.facing (.pins w d)).pinWord (s.showing (w.getLsbD 3) (w.getLsbD 1) d) = w ∧
    step (s.facing (.pins w d)) = exec (decode (.pins w d)) (s.facing (.pins w d)).takeCall

/-- The state the model places a command byte before (log 15) completes exactly that byte: the event carries it, and the
queue and the output byte are as BOUNDARY leaves them. -/
def Obligations.PlacedCommandByteIsPerformed : Prop :=
  ∀ (s : State) (rx : Byte), Configured s → step (s.facing (.command rx)) = .next (afterCompletedByte s rx)

/-- A Card is constructed from a PinMap exactly when the PinMap is well-formed: with two equal indices it is refused before
any step (R9, R203, U1; that the constructed state is the one RESET leaves is R37, R230 with D1 to D3, log 4, 5, 6). What is
constructed holds the PinMap, its masks and the image, with no call waiting. -/
def Obligations.ConstructRefusesExactlyTheIllFormed : Prop :=
  ∀ (pins : PinMap) (image : List Byte),
    (WF pins ↔ pins.clock ≠ pins.dataOut ∧ pins.clock ≠ pins.dataIn ∧ pins.clock ≠ pins.select ∧
      pins.dataOut ≠ pins.dataIn ∧ pins.dataOut ≠ pins.select ∧ pins.dataIn ≠ pins.select) ∧
    (¬ WF pins → construct pins image = .refused .illFormedPinMap) ∧
    (WF pins → ∃ t, construct pins image = .next t ∧ Configured t ∧ t.pins = pins ∧ t.storage = image ∧
      t.pending = [] ∧ exec .reset t = .next t)

/-- Whatever calls a host makes on a constructed Card, each is performed, and the state they leave meets the invariant, with
the PinMap and the image of the construction (it rests on D1 to D3, log 4, 5, 6, and on D11, log 9, for a RESET among the
calls). -/
def Obligations.RunsOfAConstructedCardMeetTheInvariant : Prop :=
  ∀ (pins : PinMap) (image : List Byte) (calls : List HostCall) (s : State), construct pins image = .next s →
    ∃ t rs, runCalls calls s = .next (t, rs) ∧ rs.length = calls.length ∧ Inv t ∧ t.pins = pins ∧ t.storage = image
end

