-- ==== Sys2Proof/Laws/Bits.lean ====
section
/-! SUPPORT. The bit primitives and the pin mapping, said once in terms of single bits. -/

namespace Sys2Proof.Machine

/-- The mask of a position has that bit and no other. -/
theorem bitMask_getLsbD (i : Idx3) (k : Nat) (hk : k < 8) : (bitMask i).getLsbD k = decide (k = i.toNat) := by
  revert i; revert k; decide

theorem bitMask_ne_zero (i : Idx3) : bitMask i ≠ 0x00#8 := by revert i; decide

theorem and_bitMask (p : Byte) (i : Idx3) : p &&& bitMask i = if p.getLsbD i.toNat then bitMask i else 0x00#8 := by
  apply BitVec.eq_of_getLsbD_eq
  intro k hk
  by_cases hki : k = i.toNat
  · subst hki
    split <;> simp_all
  · split <;> simp [bitMask_getLsbD i k hk, hki]

/-- Testing the mask of a position is reading the bit there. -/
theorem level_bitMask (p : Byte) (i : Idx3) : level p (bitMask i) = p.getLsbD i.toNat := by
  rw [level, and_bitMask]
  split <;> simp_all [bitMask_ne_zero]

/-- Setting a bit sets that bit and no other (R143 b). -/
theorem setBit_getLsbD (v : Byte) (i : Idx3) (k : Nat) (hk : k < 8) :
    (setBit v i).getLsbD k = (v.getLsbD k || decide (k = i.toNat)) := by
  rw [setBit, BitVec.getLsbD_or, bitMask_getLsbD i k hk]

/-- A level of a combined byte is high where it is high in either. -/
theorem level_or (a b : Byte) (i : Idx3) : level (a ||| b) (bitMask i) = (level a (bitMask i) || level b (bitMask i)) := by
  simp [level_bitMask]

theorem level_zero (m : Byte) : level 0x00#8 m = false := by simp [level]

/-- A mask shows a level at its own position only. -/
theorem level_bitMask_bitMask (i j : Idx3) : level (bitMask i) (bitMask j) = decide (i = j) := by revert i j; decide

/-- SAMPLE of a Card's own masks reads the port bits at the pin positions. -/
theorem sampleLevels_deriveMasks (pins : PinMap) (p : Byte) :
    sampleLevels (deriveMasks pins) p =
      { select := p.getLsbD pins.select.toNat, dataOut := p.getLsbD pins.dataOut.toNat,
        clock := p.getLsbD pins.clock.toNat } := by
  simp [sampleLevels, deriveMasks, level_bitMask]

/-- What well-formedness of a PinMap says, inequality by inequality. -/
theorem pinMap_wf_iff (p : PinMap) : p.wf = true ↔
    p.clock ≠ p.dataOut ∧ p.clock ≠ p.dataIn ∧ p.clock ≠ p.select ∧ p.dataOut ≠ p.dataIn ∧ p.dataOut ≠ p.select ∧
      p.dataIn ≠ p.select := by
  simp [PinMap.wf, and_assoc]

/-- The READ value, high line and low line. -/
@[simp] theorem encodeLine_true (m : Masks) : encodeLine m true = m.dataIn := rfl
@[simp] theorem encodeLine_false (m : Masks) : encodeLine m false = 0x00#8 := rfl

end Sys2Proof.Machine
end

