-- ==== Sys2Proof/Laws/State.lean ====
section
/-! SUPPORT. The named updates of State, field by field: one lemma per field per update. -/

namespace Sys2Proof.Machine

@[simp] theorem State.answer_pins (s : State) (r : Result) : (s.answer r).pins = s.pins := rfl
@[simp] theorem State.answer_masks (s : State) (r : Result) : (s.answer r).masks = s.masks := rfl
@[simp] theorem State.answer_storage (s : State) (r : Result) : (s.answer r).storage = s.storage := rfl
@[simp] theorem State.answer_spi (s : State) (r : Result) : (s.answer r).spi = s.spi := rfl
@[simp] theorem State.answer_pending (s : State) (r : Result) : (s.answer r).pending = s.pending := rfl
@[simp] theorem State.answer_result (s : State) (r : Result) : (s.answer r).result = r := rfl

@[simp] theorem State.enqueue_pins (s : State) (bytes : List Byte) : (s.enqueue bytes).pins = s.pins := rfl
@[simp] theorem State.enqueue_masks (s : State) (bytes : List Byte) : (s.enqueue bytes).masks = s.masks := rfl
@[simp] theorem State.enqueue_storage (s : State) (bytes : List Byte) : (s.enqueue bytes).storage = s.storage := rfl
@[simp] theorem State.enqueue_spi (s : State) (bytes : List Byte) : (s.enqueue bytes).spi = s.spi.push bytes := rfl
@[simp] theorem State.enqueue_pending (s : State) (bytes : List Byte) : (s.enqueue bytes).pending = s.pending := rfl
@[simp] theorem State.enqueue_result (s : State) (bytes : List Byte) : (s.enqueue bytes).result = s.result := rfl

@[simp] theorem State.dequeue_pins (s : State) : (s.dequeue).pins = s.pins := rfl
@[simp] theorem State.dequeue_masks (s : State) : (s.dequeue).masks = s.masks := rfl
@[simp] theorem State.dequeue_storage (s : State) : (s.dequeue).storage = s.storage := rfl
@[simp] theorem State.dequeue_spi (s : State) : (s.dequeue).spi = s.spi.afterPop := rfl
@[simp] theorem State.dequeue_pending (s : State) : (s.dequeue).pending = s.pending := rfl
@[simp] theorem State.dequeue_result (s : State) : (s.dequeue).result = s.result := rfl

@[simp] theorem State.refresh_pins (s : State) : (s.refresh).pins = s.pins := rfl
@[simp] theorem State.refresh_masks (s : State) : (s.refresh).masks = s.masks := rfl
@[simp] theorem State.refresh_storage (s : State) : (s.refresh).storage = s.storage := rfl
@[simp] theorem State.refresh_spi (s : State) : (s.refresh).spi = s.spi.refresh := rfl
@[simp] theorem State.refresh_pending (s : State) : (s.refresh).pending = s.pending := rfl
@[simp] theorem State.refresh_result (s : State) : (s.refresh).result = s.result := rfl

@[simp] theorem State.setPriorClock_pins (s : State) (c : Bool) : (s.setPriorClock c).pins = s.pins := rfl
@[simp] theorem State.setPriorClock_masks (s : State) (c : Bool) : (s.setPriorClock c).masks = s.masks := rfl
@[simp] theorem State.setPriorClock_storage (s : State) (c : Bool) : (s.setPriorClock c).storage = s.storage := rfl
@[simp] theorem State.setPriorClock_spi (s : State) (c : Bool) :
    (s.setPriorClock c).spi = { s.spi with priorClock := c } := rfl
@[simp] theorem State.setPriorClock_pending (s : State) (c : Bool) : (s.setPriorClock c).pending = s.pending := rfl
@[simp] theorem State.setPriorClock_result (s : State) (c : Bool) : (s.setPriorClock c).result = s.result := rfl

@[simp] theorem State.presentBit_pins (s : State) : (s.presentBit).pins = s.pins := rfl
@[simp] theorem State.presentBit_masks (s : State) : (s.presentBit).masks = s.masks := rfl
@[simp] theorem State.presentBit_storage (s : State) : (s.presentBit).storage = s.storage := rfl
@[simp] theorem State.presentBit_spi (s : State) :
    (s.presentBit).spi = { s.spi with outputLine := bitAt s.spi.outputBuffer s.spi.bitIndex } := rfl
@[simp] theorem State.presentBit_pending (s : State) : (s.presentBit).pending = s.pending := rfl
@[simp] theorem State.presentBit_result (s : State) : (s.presentBit).result = s.result := rfl

@[simp] theorem State.captureBit_pins (s : State) (i : Idx3) (d : Bool) :
    (s.captureBit i d).pins = s.pins := by cases d <;> rfl
@[simp] theorem State.captureBit_masks (s : State) (i : Idx3) (d : Bool) :
    (s.captureBit i d).masks = s.masks := by cases d <;> rfl
@[simp] theorem State.captureBit_storage (s : State) (i : Idx3) (d : Bool) :
    (s.captureBit i d).storage = s.storage := by cases d <;> rfl
@[simp] theorem State.captureBit_spi (s : State) (i : Idx3) (d : Bool) :
    (s.captureBit i d).spi = { s.spi with inputBuffer := if d then setBit s.spi.inputBuffer i else s.spi.inputBuffer } :=
  by cases d <;> rfl
@[simp] theorem State.captureBit_pending (s : State) (i : Idx3) (d : Bool) :
    (s.captureBit i d).pending = s.pending := by cases d <;> rfl
@[simp] theorem State.captureBit_result (s : State) (i : Idx3) (d : Bool) :
    (s.captureBit i d).result = s.result := by cases d <;> rfl

@[simp] theorem State.advance_pins (s : State) : (s.advance).pins = s.pins := rfl
@[simp] theorem State.advance_masks (s : State) : (s.advance).masks = s.masks := rfl
@[simp] theorem State.advance_storage (s : State) : (s.advance).storage = s.storage := rfl
@[simp] theorem State.advance_spi (s : State) : (s.advance).spi = { s.spi with bitIndex := s.spi.bitIndex - 1#3 } := rfl
@[simp] theorem State.advance_pending (s : State) : (s.advance).pending = s.pending := rfl
@[simp] theorem State.advance_result (s : State) : (s.advance).result = s.result := rfl

@[simp] theorem State.startByte_pins (s : State) : (s.startByte).pins = s.pins := rfl
@[simp] theorem State.startByte_masks (s : State) : (s.startByte).masks = s.masks := rfl
@[simp] theorem State.startByte_storage (s : State) : (s.startByte).storage = s.storage := rfl
@[simp] theorem State.startByte_spi (s : State) :
    (s.startByte).spi = { s.spi with inputBuffer := clearedInput, bitIndex := firstBitIndex } := rfl
@[simp] theorem State.startByte_pending (s : State) : (s.startByte).pending = s.pending := rfl
@[simp] theorem State.startByte_result (s : State) : (s.startByte).result = s.result := rfl

@[simp] theorem State.cmd40Effect_pins (s : State) : (s.cmd40Effect).pins = s.pins := rfl
@[simp] theorem State.cmd40Effect_masks (s : State) : (s.cmd40Effect).masks = s.masks := rfl
@[simp] theorem State.cmd40Effect_storage (s : State) : (s.cmd40Effect).storage = s.storage := rfl
@[simp] theorem State.cmd40Effect_spi (s : State) : (s.cmd40Effect).spi = s.spi.push cmd40Response := rfl
@[simp] theorem State.cmd40Effect_pending (s : State) : (s.cmd40Effect).pending = s.pending := rfl
@[simp] theorem State.cmd40Effect_result (s : State) : (s.cmd40Effect).result = s.result := rfl

@[simp] theorem State.cmdNoneEffect_pins (s : State) : (s.cmdNoneEffect).pins = s.pins := rfl
@[simp] theorem State.cmdNoneEffect_masks (s : State) : (s.cmdNoneEffect).masks = s.masks := rfl
@[simp] theorem State.cmdNoneEffect_storage (s : State) : (s.cmdNoneEffect).storage = s.storage := rfl
@[simp] theorem State.cmdNoneEffect_spi (s : State) : (s.cmdNoneEffect).spi = s.spi := rfl
@[simp] theorem State.cmdNoneEffect_pending (s : State) : (s.cmdNoneEffect).pending = s.pending := rfl
@[simp] theorem State.cmdNoneEffect_result (s : State) : (s.cmdNoneEffect).result = s.result := rfl

@[simp] theorem State.computeMasks_pins (s : State) : (s.computeMasks).pins = s.pins := rfl
@[simp] theorem State.computeMasks_masks (s : State) : (s.computeMasks).masks = deriveMasks s.pins := rfl
@[simp] theorem State.computeMasks_storage (s : State) : (s.computeMasks).storage = s.storage := rfl
@[simp] theorem State.computeMasks_spi (s : State) : (s.computeMasks).spi = s.spi := rfl
@[simp] theorem State.computeMasks_pending (s : State) : (s.computeMasks).pending = s.pending := rfl
@[simp] theorem State.computeMasks_result (s : State) : (s.computeMasks).result = s.result := rfl

@[simp] theorem State.present_pins (s : State) (call : HostCall) : (s.present call).pins = s.pins := rfl
@[simp] theorem State.present_masks (s : State) (call : HostCall) : (s.present call).masks = s.masks := rfl
@[simp] theorem State.present_storage (s : State) (call : HostCall) : (s.present call).storage = s.storage := rfl
@[simp] theorem State.present_spi (s : State) (call : HostCall) : (s.present call).spi = s.spi := rfl
@[simp] theorem State.present_pending (s : State) (call : HostCall) : (s.present call).pending = call :: s.pending := rfl
@[simp] theorem State.present_result (s : State) (call : HostCall) : (s.present call).result = s.result := rfl

@[simp] theorem State.takeCall_pins (s : State) : (s.takeCall).pins = s.pins := rfl
@[simp] theorem State.takeCall_masks (s : State) : (s.takeCall).masks = s.masks := rfl
@[simp] theorem State.takeCall_storage (s : State) : (s.takeCall).storage = s.storage := rfl
@[simp] theorem State.takeCall_spi (s : State) : (s.takeCall).spi = s.spi := rfl
@[simp] theorem State.takeCall_pending (s : State) : (s.takeCall).pending = s.pending.tail := rfl
@[simp] theorem State.takeCall_result (s : State) : (s.takeCall).result = s.result := rfl

end Sys2Proof.Machine
end

