-- ==== Sys2Proof/Laws/Ops.lean ====
section
/-! SUPPORT. What each shared operation can do, said once. -/

namespace Sys2Proof.Machine

/-- DEQUEUE_OR_DEFAULT returns the head or the default. -/
theorem Spi.popped_eq (c : Spi) : c.popped = c.outputQueue.headD queueDefault := by
  cases h : c.outputQueue <;> simp [Spi.popped, h]

/-- DEQUEUE_OR_DEFAULT leaves the tail and touches nothing else. -/
theorem Spi.afterPop_eq (c : Spi) : c.afterPop = { c with outputQueue := c.outputQueue.tail } := by
  rcases c with ⟨pc, bi, ob, q, ol, ib⟩
  cases q <;> rfl

/-- The refresh takes the output byte from the queue and touches nothing else. -/
theorem Spi.refresh_eq (c : Spi) : c.refresh =
    { c with outputBuffer := c.outputQueue.headD queueDefault, outputQueue := c.outputQueue.tail } := by
  rw [Spi.refresh, Spi.afterPop_eq, Spi.popped_eq]

@[simp] theorem Spi.push_outputQueue (c : Spi) (bs : List Byte) : (c.push bs).outputQueue = c.outputQueue ++ bs := rfl

/-- The queue a byte boundary finds once the command has had its effect. -/
def Spi.queueAfterCommand (c : Spi) (rx : Byte) : List Byte :=
  if isCmd40 rx then c.outputQueue ++ cmd40Response else c.outputQueue

/-- BOUNDARY writes the queue, the output byte and the event. -/
theorem State.boundary_eq (s : State) (rx tx : Byte) : s.boundary rx tx =
    { s with
      spi := { s.spi with
        outputBuffer := (s.spi.queueAfterCommand rx).headD queueDefault
        outputQueue := (s.spi.queueAfterCommand rx).tail }
      result := .event { rx := rx, tx := tx } } := by
  cases h : isCmd40 rx <;>
    simp [State.boundary, State.emit, State.answer, State.refresh, State.cmd40Effect, State.cmdNoneEffect,
      State.enqueue, Spi.push, Spi.refresh_eq, Spi.queueAfterCommand, h]

/-- Completing a byte is the boundary, the cleared input buffer and bit index 7. -/
theorem State.completeByte_eq (s : State) : s.completeByte =
    { s with
      spi := { s.spi with
        outputBuffer := (s.spi.queueAfterCommand s.spi.inputBuffer).headD queueDefault
        outputQueue := (s.spi.queueAfterCommand s.spi.inputBuffer).tail
        inputBuffer := clearedInput
        bitIndex := firstBitIndex }
      result := .event { rx := s.spi.inputBuffer, tx := s.spi.outputBuffer } } := by
  simp [State.completeByte, State.boundary_eq, State.startByte]

/-- The capture writes the input buffer only. -/
theorem State.captureBit_eq (s : State) (i : Idx3) (d : Bool) : s.captureBit i d =
    { s with spi := { s.spi with inputBuffer := if d then setBit s.spi.inputBuffer i else s.spi.inputBuffer } } := by
  cases d <;> rfl

/-- Everything a WRITE can do, by the levels it shows and the last clock level. -/
theorem execWrite_cases (p : Byte) (s : State) (l : Levels) (hl : sampleLevels s.masks p = l) :
    (l.select = true → execWrite p s = .next (s.answer .nothing)) ∧
    (l.select = false → l.clock = s.spi.priorClock → execWrite p s = .next (s.answer .nothing)) ∧
    (l.select = false → s.spi.priorClock = false → l.clock = true →
      execWrite p s = .next ((s.setPriorClock true).presentBit.answer .nothing)) ∧
    (l.select = false → s.spi.priorClock = true → l.clock = false → s.spi.bitIndex ≠ 0#3 →
      execWrite p s = .next (((s.setPriorClock false).captureBit s.spi.bitIndex l.dataOut).advance.answer .nothing)) ∧
    (l.select = false → s.spi.priorClock = true → l.clock = false → s.spi.bitIndex = 0#3 →
      execWrite p s = .next ((s.setPriorClock false).captureBit 0#3 l.dataOut).completeByte) := by
  subst hl
  rcases s with ⟨pins, masks, storage, ⟨pc, bi, ob, q, ol, ib⟩, pending, result⟩
  refine ⟨?_, ?_, ?_, ?_, ?_⟩ <;> intros <;>
    simp_all [execWrite, rising, falling, State.answer, State.setPriorClock, State.presentBit, State.captureBit_eq,
      State.advance, State.completeByte_eq]

/-- The four bits of a pin word (R73). -/
theorem State.pinWord_bits (s : State) (p : Byte) :
    (s.pinWord p).getLsbD 3 = level p s.masks.select ∧ (s.pinWord p).getLsbD 2 = s.spi.priorClock ∧
    (s.pinWord p).getLsbD 1 = level p s.masks.clock ∧ (s.pinWord p).getLsbD 0 = (s.spi.bitIndex == 0#3) := by
  simp only [State.pinWord, sampleLevels]
  generalize level p s.masks.select = a
  generalize level p s.masks.clock = b
  generalize (s.spi.bitIndex == 0#3) = c
  generalize s.spi.priorClock = d
  revert a b c d
  decide

/-- The pin decoder as tests of single bits. -/
theorem decodePins_eq (w : BitVec 4) (d : Bool) : decodePins w d =
    if w.getLsbD 3 then .writeDesel
    else if w.getLsbD 2 = w.getLsbD 1 then (if w.getLsbD 1 then .writeHoldHi else .writeHoldLo)
    else if w.getLsbD 1 then .writeRise
    else if w.getLsbD 0 then .writeFallLast d else .writeFallMid d := by
  revert w d
  decide

/-- A step on a presented call is the operation the call decodes to. -/
theorem step_present (s : State) (c : HostCall) : step (s.present c) = exec (decodeCall c) s := rfl

/-- A step takes the first pending call. -/
theorem step_of_pending (s : State) (c : HostCall) (cs : List HostCall) (h : s.pending = c :: cs) :
    step s = exec (decodeCall c) { s with pending := cs } := by
  simp [step, State.nextCall, State.takeCall, h]

/-- With no call pending a step is NOP. -/
theorem step_of_no_pending (s : State) (h : s.pending = []) : step s = exec .nop s := by
  rcases s with ⟨_, _, _, _, pending, _⟩
  cases h
  rfl

/-- Everything `construct` can do: refuse an ill-formed PinMap, or give the Card of a well-formed one. -/
theorem construct_cases (pins : PinMap) (image : List Byte) :
    (¬ WF pins ∧ construct pins image = .refused .illFormedPinMap) ∨
    (WF pins ∧ construct pins image = .next
      { pins := pins, masks := deriveMasks pins, storage := image, spi := Spi.initial, pending := [], result := .nothing }) := by
  by_cases h : pins.wf = true
  · exact .inr ⟨h, if_pos h⟩
  · exact .inl ⟨h, if_neg h⟩

end Sys2Proof.Machine
end

