-- ==== Sys2Proof/Laws/PerInstr.lean ====
section
/-! SUPPORT. The family RoundTrip of LAWS.json: for each operation, the word the encoder gives decodes back to it. -/

namespace Sys2Proof.Laws.RoundTrip

/-- A well-formed operation that has a word is what the word decodes to. -/
def Statement (i : Instr) : Prop := i.wf = true → ∀ w, encode i = some w → decode w = i

theorem reset : Statement .reset := by rintro - w ⟨⟩; rfl
theorem write (portByte : Byte) : Statement (.write portByte) := by rintro - w ⟨⟩; rfl
theorem nop : Statement .nop := by rintro - w ⟨⟩; rfl
theorem read : Statement .read := by rintro - w ⟨⟩; rfl
theorem writeDesel : Statement .writeDesel := by rintro - w ⟨⟩; rfl
theorem writeHoldLo : Statement .writeHoldLo := by rintro - w ⟨⟩; rfl
theorem writeHoldHi : Statement .writeHoldHi := by rintro - w ⟨⟩; rfl
theorem writeRise : Statement .writeRise := by rintro - w ⟨⟩; rfl
theorem writeFallMid (dataOut : Bool) : Statement (.writeFallMid dataOut) := by rintro - w ⟨⟩; rfl
theorem writeFallLast (dataOut : Bool) : Statement (.writeFallLast dataOut) := by rintro - w ⟨⟩; rfl
theorem cmd40 : Statement .cmd40 := by rintro - w ⟨⟩; rfl
theorem cmdNone (rx : Byte) : Statement (.cmdNone rx) := by
  rintro h w ⟨⟩
  simp only [Instr.wf, bne_iff_ne] at h
  simp [decode, decodeCommand, isCmd40, h]
theorem masks : Statement .masks := by rintro - w ⟨⟩
theorem sample (portByte : Byte) : Statement (.sample portByte) := by rintro - w ⟨⟩
theorem encode (outputLine : Bool) : Statement (.encode outputLine) := by rintro - w ⟨⟩
theorem enqueue (bytes : List Byte) : Statement (.enqueue bytes) := by rintro - w ⟨⟩
theorem dequeueOrDefault : Statement .dequeueOrDefault := by rintro - w ⟨⟩
theorem boundary (rx tx : Byte) : Statement (.boundary rx tx) := by rintro - w ⟨⟩
theorem event (rx tx : Byte) : Statement (.event rx tx) := by rintro - w ⟨⟩

end Sys2Proof.Laws.RoundTrip
end

