-- ==== Sys2Proof/Laws/Run.lean ====
section
/-! SUPPORT. Runs of host calls, one call at a time. -/

namespace Sys2Proof.Machine

@[simp] theorem eventsOf_nil : eventsOf [] = [] := rfl
@[simp] theorem eventsOf_nothing (rs : List Result) : eventsOf (.nothing :: rs) = eventsOf rs := rfl
@[simp] theorem eventsOf_event (e : Event) (rs : List Result) : eventsOf (.event e :: rs) = e :: eventsOf rs := rfl
@[simp] theorem eventsOf_byte (b : Byte) (rs : List Result) : eventsOf (.byte b :: rs) = eventsOf rs := rfl
@[simp] theorem readsOf_nil : readsOf [] = [] := rfl
@[simp] theorem readsOf_nothing (rs : List Result) : readsOf (.nothing :: rs) = readsOf rs := rfl
@[simp] theorem readsOf_event (e : Event) (rs : List Result) : readsOf (.event e :: rs) = readsOf rs := rfl
@[simp] theorem readsOf_byte (b : Byte) (rs : List Result) : readsOf (.byte b :: rs) = b :: readsOf rs := rfl

@[simp] theorem writeCalls_nil : writeCalls [] = [] := rfl
@[simp] theorem writeCalls_cons (p : Byte) (ps : List Byte) :
    writeCalls (p :: ps) = .strobe 0b01#2 p :: writeCalls ps := rfl
@[simp] theorem writeCalls_append (ps qs : List Byte) : writeCalls (ps ++ qs) = writeCalls ps ++ writeCalls qs :=
  List.map_append

@[simp] theorem runCalls_nil (s : State) : runCalls [] s = .next (s, []) := rfl

/-- A run whose first call answers `s'` and whose rest answers `t`. -/
theorem runCalls_cons (c : HostCall) (cs : List HostCall) (s s' t : State) (rs : List Result)
    (h : exec (decodeCall c) s = .next s') (hs : runCalls cs s' = .next (t, rs)) :
    runCalls (c :: cs) s = .next (t, s'.result :: rs) := by
  simp [runCalls, step_present, h, hs]

/-- Two runs one after the other. -/
theorem runCalls_append (cs ds : List HostCall) : ∀ (s t u : State) (rs qs : List Result),
    runCalls cs s = .next (t, rs) → runCalls ds t = .next (u, qs) → runCalls (cs ++ ds) s = .next (u, rs ++ qs) := by
  induction cs with
  | nil =>
    intro s t u rs qs h h'
    cases h
    exact h'
  | cons c cs ih =>
    intro s t u rs qs h h'
    simp only [runCalls, step_present] at h
    cases hc : exec (decodeCall c) s with
    | fault r => cases r
    | refused r => simp [hc] at h
    | next s' =>
      cases hr : runCalls cs s' with
      | fault r => cases r
      | refused r => simp [hc, hr] at h
      | next x =>
        rcases x with ⟨t', rs'⟩
        simp only [hc, hr, Host.Outcome.next.injEq, Prod.mk.injEq] at h
        rcases h with ⟨rfl, rfl⟩
        exact runCalls_cons c (cs ++ ds) s s' u (rs' ++ qs) hc (ih s' t' u rs' qs hr h')

end Sys2Proof.Machine
end

