-- ==== Sys2Proof/Tests/Slice0.lean ====
section
/-! SUPPORT. The smoke test of WellFormed; words written out from the spec's encodings; one-step tests whose expected results
are the vectors of 95_test_vectors.md; a witness for each statement that has hypotheses. -/

namespace Sys2Proof.Tests

open Sys2Proof.Machine

/-! Helpers. -/

/-- The six fields in the order of 95_test_vectors.md. -/
def spiOf (priorClock : Bool) (bitIndex : Idx3) (outputBuffer : Byte) (outputQueue : List Byte) (outputLine : Bool)
    (inputBuffer : Byte) : Spi :=
  { priorClock, bitIndex, outputBuffer, outputQueue, outputLine, inputBuffer }

/-- A Card with the given PinMap and protocol state. -/
def card (pins : PinMap) (c : Spi) : State :=
  { pins := pins, masks := deriveMasks pins, storage := [], spi := c, pending := [], result := .nothing }

/-- A Card of PM_A. -/
def cardA (c : Spi) : State := card Config.pmA c

/-- What a step leaves of the protocol state, and what it returns. -/
def after (o : Host.Outcome State Fault Refusal) : Option (Spi × Result) :=
  match o with
  | .next t => some (t.spi, t.result)
  | .fault _ => none
  | .refused _ => none

/-! WellFormed: each check refuses a term that breaks it alone. -/

theorem smoke_pins_wf : Config.pmA.wf = true ∧ Config.pmB.wf = true := by decide
theorem smoke_clock_dataOut : PinMap.wf { clock := 1, dataOut := 1, dataIn := 2, select := 3 } = false := by decide
theorem smoke_clock_dataIn : PinMap.wf { clock := 2, dataOut := 1, dataIn := 2, select := 3 } = false := by decide
theorem smoke_clock_select : PinMap.wf { clock := 3, dataOut := 1, dataIn := 2, select := 3 } = false := by decide
theorem smoke_dataOut_dataIn : PinMap.wf { clock := 0, dataOut := 2, dataIn := 2, select := 3 } = false := by decide
theorem smoke_dataOut_select : PinMap.wf { clock := 0, dataOut := 3, dataIn := 2, select := 3 } = false := by decide
theorem smoke_dataIn_select : PinMap.wf { clock := 0, dataOut := 1, dataIn := 3, select := 3 } = false := by decide
/-- `construct` refuses an ill-formed PinMap before any step and takes a well-formed one. -/
theorem smoke_construct : construct { clock := 1, dataOut := 1, dataIn := 2, select := 3 } [] = .refused .illFormedPinMap ∧
    construct Config.pmA [] = .next State.reset := ⟨rfl, rfl⟩
theorem smoke_cmdNone : Instr.wf (.cmdNone 0x40#8) = false ∧ Instr.wf (.cmdNone 0x41#8) = true := by decide

/-! Decoding: every row of R72, R74, R76, its word written out. -/

theorem test_decode_reset : decode (.host (.strobe 0b10#2 0xFF#8)) = .reset ∧
    decode (.host (.strobe 0b11#2 0x01#8)) = .reset := by decide
theorem test_decode_write : decode (.host (.strobe 0b01#2 0xF1#8)) = .write 0xF1#8 := by decide
theorem test_decode_nop : decode (.host (.strobe 0b00#2 0xF1#8)) = .nop := by decide
theorem test_decode_read : decode (.host .read) = .read := by decide
theorem test_decode_desel : decode (.pins 0b1000#4 true) = .writeDesel ∧ decode (.pins 0b1101#4 true) = .writeDesel := by
  decide
theorem test_decode_holdLo : decode (.pins 0b0000#4 true) = .writeHoldLo ∧ decode (.pins 0b0001#4 true) = .writeHoldLo := by
  decide
theorem test_decode_holdHi : decode (.pins 0b0110#4 true) = .writeHoldHi ∧ decode (.pins 0b0111#4 true) = .writeHoldHi := by
  decide
theorem test_decode_rise : decode (.pins 0b0010#4 true) = .writeRise ∧ decode (.pins 0b0011#4 true) = .writeRise := by decide
theorem test_decode_fallMid : decode (.pins 0b0100#4 true) = .writeFallMid true := by decide
theorem test_decode_fallLast : decode (.pins 0b0101#4 true) = .writeFallLast true := by decide
theorem test_decode_cmd40 : decode (.command 0b01000000#8) = .cmd40 := by decide
/-- The neighbours of 0x40 (T-BND-6 to T-BND-9). -/
theorem test_decode_cmdNone : decode (.command 0x41#8) = .cmdNone 0x41#8 ∧ decode (.command 0xC0#8) = .cmdNone 0xC0#8 ∧
    decode (.command 0x3F#8) = .cmdNone 0x3F#8 ∧ decode (.command 0xBF#8) = .cmdNone 0xBF#8 := by decide

/-- The opcode table's numbers, and two that are no word of it. -/
theorem test_decodeTableWord : [decodeTableWord 8 2, decodeTableWord 8 1, decodeTableWord 8 0, decodeTableWord 8 8,
    decodeTableWord 8 0x10, decodeTableWord 8 6, decodeTableWord 8 0x12, decodeTableWord 8 4, decodeTableWord 8 5,
    decodeTableWord 16 0x40, decodeTableWord 16 0, decodeTableWord 8 256, decodeTableWord 24 0] =
    [some .reset, some (.write 0), some .nop, some .writeDesel, some .writeHoldLo, some .writeHoldHi, some .writeRise,
      some (.writeFallMid false), some (.writeFallLast false), some .cmd40, some (.cmdNone 0), none, none] := by decide

/-! One step each, from 95_test_vectors.md. -/

/-- T-RESET-2. -/
theorem test_reset : after (exec .reset (cardA (spiOf true 2 0xAC [0xAD, 0xAA] true 0xE0))) =
    some (spiOf false 7 0x00 [0x00, 0xFF] false 0x00, .nothing) := by decide
/-- T-RESET-3: the write is discarded. -/
theorem test_reset_wins : after (step ((cardA (spiOf false 7 0x00 [0x00, 0xFF] false 0x00)).present
    (.strobe 0b11#2 0x01#8))) = some (spiOf false 7 0x00 [0x00, 0xFF] false 0x00, .nothing) := by decide
/-- V10: bits 7 to 4 of the port byte are ignored. -/
theorem test_write_rise : after (exec (.write 0xF1) (cardA (spiOf false 7 0xFF [] false 0x00))) =
    some (spiOf true 7 0xFF [] true 0x00, .nothing) := by decide
/-- V17: the response queues behind pending bytes. -/
theorem test_write_fallLast : after (exec (.write 0x00) (cardA (spiOf true 0 0x00 [0x00, 0xFF] false 0x40))) =
    some (spiOf false 7 0x00 [0xFF, 0xAA, 0xAB, 0xAC, 0xAD] false 0x00, .event { rx := 0x40, tx := 0x00 }) := by decide
/-- T-RESET-4. -/
theorem test_nop : after (exec .nop State.reset) = some (spiOf false 7 0x00 [0x00, 0xFF] false 0x00, .nothing) := by decide
/-- T-READ-1 and T-READ-4. -/
theorem test_read : after (exec .read (cardA (spiOf true 3 0xAB [] true 0x00))) =
      some (spiOf true 3 0xAB [] true 0x00, .byte 0x04) ∧
    after (exec .read (card Config.pmB (spiOf true 3 0xAB [] true 0x00))) =
      some (spiOf true 3 0xAB [] true 0x00, .byte 0x40) := by decide
/-- T-HAZ-4: the line lags the buffer. -/
theorem test_read_lags : after (exec .read (cardA (spiOf false 7 0xAA [0xAB] false 0x00))) =
    some (spiOf false 7 0xAA [0xAB] false 0x00, .byte 0x00) := by decide
/-- V2, as the class and as the WRITE. -/
theorem test_writeDesel : after (exec .writeDesel (cardA (spiOf true 3 0xAB [0xAC] true 0x50))) =
      some (spiOf true 3 0xAB [0xAC] true 0x50, .nothing) ∧
    after (exec (.write 0xFF) (cardA (spiOf true 3 0xAB [0xAC] true 0x50))) =
      some (spiOf true 3 0xAB [0xAC] true 0x50, .nothing) := by decide
/-- V4. -/
theorem test_writeHoldLo : after (exec .writeHoldLo (cardA (spiOf false 7 0x00 [0x00, 0xFF] false 0x00))) =
      some (spiOf false 7 0x00 [0x00, 0xFF] false 0x00, .nothing) ∧
    after (exec (.write 0x02) (cardA (spiOf false 7 0x00 [0x00, 0xFF] false 0x00))) =
      some (spiOf false 7 0x00 [0x00, 0xFF] false 0x00, .nothing) := by decide
/-- V6. -/
theorem test_writeHoldHi : after (exec .writeHoldHi (cardA (spiOf true 5 0xFF [] true 0xC0))) =
      some (spiOf true 5 0xFF [] true 0xC0, .nothing) ∧
    after (exec (.write 0x03) (cardA (spiOf true 5 0xFF [] true 0xC0))) =
      some (spiOf true 5 0xFF [] true 0xC0, .nothing) := by decide
/-- V8 and V9. -/
theorem test_writeRise : after (exec .writeRise (cardA (spiOf false 6 0xAA [0xAB] true 0x80))) =
      some (spiOf true 6 0xAA [0xAB] false 0x80, .nothing) ∧
    after (exec .writeRise (cardA (spiOf false 0 0xAB [] false 0xFE))) =
      some (spiOf true 0 0xAB [] true 0xFE, .nothing) := by decide
/-- V13. -/
theorem test_writeFallMid : after (exec (.writeFallMid true) (cardA (spiOf true 1 0x00 [] false 0x40))) =
    some (spiOf false 0 0x00 [] false 0x42, .nothing) := by decide
/-- V14: a 0 data bit does not clear. -/
theorem test_writeFallMid_keeps : after (exec (.write 0x00) (cardA (spiOf true 4 0x00 [] false 0x10))) =
    some (spiOf false 3 0x00 [] false 0x10, .nothing) := by decide
/-- V15. -/
theorem test_writeFallLast : after (exec (.writeFallLast false) (cardA (spiOf true 0 0xFF [] true 0x40))) =
    some (spiOf false 7 0xAA [0xAB, 0xAC, 0xAD] true 0x00, .event { rx := 0x40, tx := 0xFF }) := by decide
/-- V22: the dataIn bit of a written byte is ignored. -/
theorem test_write_last_bit : after (exec (.write 0x06) (cardA (spiOf true 0 0x00 [] false 0x3E))) =
    some (spiOf false 7 0x00 [] false 0x00, .event { rx := 0x3F, tx := 0x00 }) := by decide
/-- R161, the example. -/
theorem test_cmd40 : after (exec .cmd40 (cardA (spiOf false 7 0x00 [0xFF] false 0x00))) =
    some (spiOf false 7 0x00 [0xFF, 0xAA, 0xAB, 0xAC, 0xAD] false 0x00, .nothing) := by decide
/-- R162, the example. -/
theorem test_cmdNone : after (exec (.cmdNone 0xFF) (cardA (spiOf false 7 0x00 [0xAB] false 0x00))) =
    some (spiOf false 7 0x00 [0xAB] false 0x00, .nothing) := by decide
/-- T-MASK-2 and T-MASK-3. -/
theorem test_masks : (after (exec .masks (card Config.pmA (spiOf false 7 0 [] false 0)))).map Prod.snd =
      some (.masks { clock := 0x01, dataOut := 0x02, dataIn := 0x04, select := 0x08, combined := 0x0F }) ∧
    (after (exec .masks (card Config.pmB (spiOf false 7 0 [] false 0)))).map Prod.snd =
      some (.masks { clock := 0x20, dataOut := 0x80, dataIn := 0x40, select := 0x04, combined := 0xE4 }) := by decide
/-- T-MASK-5: the rules stay total on an ill-formed PinMap (R9, D16). -/
theorem test_masks_ill_formed :
    (after (exec .masks (card { clock := 1, dataOut := 1, dataIn := 2, select := 3 } (spiOf false 7 0 [] false 0)))).map
      Prod.snd = some (.masks { clock := 0x02, dataOut := 0x02, dataIn := 0x04, select := 0x08, combined := 0x0E }) := by decide
/-- T-SMP-7. -/
theorem test_sample : (after (exec (.sample 0xF4) State.reset)).map Prod.snd =
    some (.levels { select := false, dataOut := false, clock := false }) := by decide
/-- The PM_B byte A0 of section 2.2. -/
theorem test_sample_pmB : (after (exec (.sample 0xA0) (card Config.pmB (spiOf false 7 0 [] false 0)))).map Prod.snd =
    some (.levels { select := false, dataOut := true, clock := true }) := by decide
/-- R102, the example. -/
theorem test_encode : (after (exec (.encode true) State.reset)).map Prod.snd = some (.byte 0x04) ∧
    (after (exec (.encode false) State.reset)).map Prod.snd = some (.byte 0x00) := by decide
/-- T-Q-2. -/
theorem test_enqueue : after (exec (.enqueue [0xAA, 0xAB, 0xAC, 0xAD]) State.reset) =
    some (spiOf false 7 0x00 [0x00, 0xFF, 0xAA, 0xAB, 0xAC, 0xAD] false 0x00, .nothing) := by decide
/-- T-Q-6, its two pops. -/
theorem test_dequeue : after (exec .dequeueOrDefault (cardA (spiOf false 7 0x00 [0xFF] false 0x00))) =
      some (spiOf false 7 0x00 [] false 0x00, .byte 0xFF) ∧
    after (exec .dequeueOrDefault (cardA (spiOf false 7 0x00 [] false 0x00))) =
      some (spiOf false 7 0x00 [] false 0x00, .byte 0x00) := by decide
/-- T-BND-3 and T-BND-8. -/
theorem test_boundary : after (exec (.boundary 0x40 0xAA) (cardA (spiOf false 0 0xAA [0xAB, 0xAC, 0xAD] false 0x40))) =
      some (spiOf false 0 0xAB [0xAC, 0xAD, 0xAA, 0xAB, 0xAC, 0xAD] false 0x40, .event { rx := 0x40, tx := 0xAA }) ∧
    after (exec (.boundary 0x3F 0xAD) (cardA (spiOf false 0 0xAD [] false 0x3F))) =
      some (spiOf false 0 0x00 [] false 0x3F, .event { rx := 0x3F, tx := 0xAD }) := by decide
/-- R164: the first event after RESET with a host that sends 0xFF. -/
theorem test_event : after (exec (.event 0xFF 0x00) State.reset) =
    some (spiOf false 7 0x00 [0x00, 0xFF] false 0x00, .event { rx := 0xFF, tx := 0x00 }) := by decide
/-- T-HAZ-2, its last step: the fall made while deselected is seen at the reselecting WRITE. -/
theorem test_stale_clock : after (exec (.write 0x00) (cardA (spiOf true 7 0x00 [0x00, 0xFF] false 0x00))) =
    some (spiOf false 6 0x00 [0x00, 0xFF] false 0x00, .nothing) := by decide
/-- R85: the expansions under PM_A and PM_B (part 3 of 95_test_vectors.md). -/
theorem test_notation : clockCall (deriveMasks Config.pmA) true true = .strobe 0b01#2 0x03 ∧
    clockCall (deriveMasks Config.pmB) false true = .strobe 0b01#2 0x80 ∧
    idleCall (deriveMasks Config.pmA) true false = .strobe 0b01#2 0x09 ∧ decodeCall resetCall = .reset := by decide

/-! A word placed for the very next step is performed. -/

/-- With no call waiting the state holds. -/
theorem test_step_idle : after (step State.reset) = some (spiOf false 7 0x00 [0x00, 0xFF] false 0x00, .nothing) := by decide
/-- The falling edge at bit 0 completes a byte; then the command byte 0x40 itself. -/
theorem test_fetch_fallLast : after (step (State.reset.withFetchWord 8 5)) =
      some (spiOf false 7 0x00 [0xFF] false 0x00, .event { rx := 0x00, tx := 0x00 }) ∧
    after (step (State.reset.withFetchWord 16 0x40)) =
      some (spiOf false 7 0x00 [0xFF, 0xAA, 0xAB, 0xAC, 0xAD] false 0x00, .event { rx := 0x40, tx := 0x00 }) := by decide

/-! Witnesses: for each statement with hypotheses, a state and operands that meet them together. -/

theorem configured_card (pins : PinMap) (c : Spi) (h : pins.wf = true) : Configured (card pins c) := ⟨h, rfl⟩

/-- A Card of PM_B in the middle of a byte, clock high. -/
def midB : State := card Config.pmB (spiOf true 3 0xAB [0xAC, 0xAD] true 0xF0)
/-- A Card of PM_A at the last bit of a 0x40, clock high, queue empty. -/
def lastA : State := cardA (spiOf true 0 0x00 [] false 0x40)
/-- A Card of PM_A at the start of a byte, clock low. -/
def startA : State := cardA (spiOf false 7 0xAA [0xAB] false 0x00)

/-- For the statements whose one hypothesis is `WF`. -/
theorem witness_WF : WF midB.pins ∧ WF lastA.pins ∧ WF startA.pins := by decide
theorem witness_BitIndexIsSeven : (WF lastA.pins ∧ 0x00#8 &&& lastA.masks.select = 0#8 ∧ lastA.spi.priorClock = true ∧
    0x00#8 &&& lastA.masks.clock = 0#8 ∧ lastA.spi.bitIndex = 0#3) := by decide
theorem witness_Deselected : WF midB.pins ∧ (0x04#8 &&& midB.masks.select ≠ 0#8) ∧ (0b1000#4).getLsbD 3 = true := by decide
theorem witness_DeselectedSequence : WF midB.pins ∧ ∀ p ∈ [0x04#8, 0xFF#8, 0x24#8], p &&& midB.masks.select ≠ 0#8 := by decide
theorem witness_Hold : (WF startA.pins ∧ 0x02#8 &&& startA.masks.select = 0#8 ∧
      (0x02#8 &&& startA.masks.clock != 0#8) = startA.spi.priorClock)
    ∧ startA.spi.priorClock = false ∧
    (WF midB.pins ∧ 0x20#8 &&& midB.masks.select = 0#8 ∧ (0x20#8 &&& midB.masks.clock != 0#8) = midB.spi.priorClock) ∧
    midB.spi.priorClock = true := by decide
theorem witness_Rise : WF startA.pins ∧ 0x01#8 &&& startA.masks.select = 0#8 ∧ startA.spi.priorClock = false ∧
    0x01#8 &&& startA.masks.clock ≠ 0#8 := by decide
theorem witness_FallMid : WF midB.pins ∧ 0x80#8 &&& midB.masks.select = 0#8 ∧ midB.spi.priorClock = true ∧
    0x80#8 &&& midB.masks.clock = 0#8 ∧ midB.spi.bitIndex ≠ 0#3 := by decide
/-- The boundary values of the bit index of a falling edge inside a byte. -/
theorem witness_FallMid_bounds : WF Config.pmA ∧ (cardA (spiOf true 1 0 [] false 0)).spi.bitIndex ≠ 0#3 ∧
    (cardA (spiOf true 7 0 [] false 0)).spi.bitIndex ≠ 0#3 := by decide
theorem witness_FallLast : WF lastA.pins ∧ 0x02#8 &&& lastA.masks.select = 0#8 ∧ lastA.spi.priorClock = true ∧
    0x02#8 &&& lastA.masks.clock = 0#8 ∧ lastA.spi.bitIndex = 0#3 := by decide
theorem witness_CmdNone : WF midB.pins ∧ (0x41#8 : Byte) ≠ 0x40#8 ∧ (0x3F#8 : Byte) ≠ 0x40#8 := by decide
theorem witness_Dequeue : (WF lastA.pins ∧ lastA.spi.outputQueue = []) ∧ WF midB.pins ∧ midB.spi.outputQueue = 0xAC#8 :: [0xAD#8] := by decide
theorem witness_EmptyQueue : WF lastA.pins ∧ lastA.spi.outputQueue = [] ∧ (0xFF#8 : Byte) ≠ 0x40#8 ∧ (0x40#8 : Byte) = 0x40#8 := by decide
/-- For SampleReadsThePinPositions, ReadShowsOnlyTheLine, PlacedPinWordIsPerformed and PlacedCommandByteIsPerformed. -/
theorem witness_Configured : Configured midB := ⟨by decide, rfl⟩
theorem witness_DecodeOfEncode : (Instr.cmdNone 0xFF#8).wf = true ∧ encode (.cmdNone 0xFF#8) = some (.command 0xFF#8) := by
  decide
/-- The cases of EveryWordHasAWellFormedOperation: words that share an operation, and words that do not. -/
theorem witness_EveryWord : decode (.host (.strobe 0b10#2 0x01#8)) = decode (.host (.strobe 0b11#2 0xFF#8)) ∧
    decode (.host (.strobe 0b01#2 0x01#8)) ≠ decode (.host (.strobe 0b01#2 0x00#8)) ∧
    decode (.pins 0b1000#4 false) = decode (.pins 0b1111#4 true) ∧
    decode (.pins 0b0100#4 false) ≠ decode (.pins 0b0100#4 true) ∧ decode (.pins 0b0010#4 true) = decode (.pins 0b0011#4 false) ∧
    decode (.command 0x07#8) ≠ decode (.command 0x08#8) := by decide
theorem witness_PortByte : WF Config.pmB := by decide
theorem witness_OnlyThreePortBits : Configured midB ∧ (0xA0#8).getLsbD midB.pins.select.toNat =
      (0xFB#8).getLsbD midB.pins.select.toNat ∧
    (0xA0#8).getLsbD midB.pins.clock.toNat = (0xFB#8).getLsbD midB.pins.clock.toNat ∧
    (0xA0#8).getLsbD midB.pins.dataOut.toNat = (0xFB#8).getLsbD midB.pins.dataOut.toNat :=
  ⟨witness_Configured, by decide, by decide, by decide⟩
/-- For WriteChangesOnlyWhatItsClassMay, ConfigurationNeverChanges and OtherOperationsFrame. -/
theorem witness_ExecAnswers : WF midB.pins ∧ (∃ t, exec (.write 0x04#8) midB = .next t) ∧ (∃ t, exec .masks midB = .next t) ∧
    (∃ t, exec .read midB = .next t) ∧ (∃ t, exec .cmd40 midB = .next t) ∧ ∃ t, exec (.boundary 0 0) midB = .next t :=
  ⟨by decide, ⟨_, rfl⟩, ⟨_, rfl⟩, ⟨_, rfl⟩, ⟨_, rfl⟩, ⟨_, rfl⟩⟩
/-- Every class occurs: the cases of EdgesAlternate and WriteChangesOnlyWhatItsClassMay. -/
theorem witness_Classes : [decode (.pins (startA.pinWord 0x08) false), decode (.pins (startA.pinWord 0x00) false),
    decode (.pins (startA.pinWord 0x01) false), decode (.pins (lastA.pinWord 0x01) false),
    decode (.pins (lastA.pinWord 0x02) true), decode (.pins (midB.pinWord 0x80) true)] =
    [.writeDesel, .writeHoldLo, .writeRise, .writeHoldHi, .writeFallLast true, .writeFallMid true] := by decide
theorem witness_Framing : Configured startA ∧ startA.spi.bitIndex = 7#3 := ⟨⟨by decide, rfl⟩, rfl⟩
/-- The bytes of `XFER 40` in P2: only the second falling edge carries a 1. -/
theorem witness_ReceivedByte : Configured startA ∧ startA.spi.bitIndex = 7#3 ∧ startA.spi.inputBuffer = 0x00#8 ∧
    fallingData (edges startA.pins startA.spi.priorClock
      [0x01, 0x00, 0x03, 0x02, 0x01, 0x00, 0x01, 0x00, 0x01, 0x00, 0x01, 0x00, 0x01, 0x00, 0x01, 0x00]) =
      [false, true, false, false, false, false, false, false] := ⟨⟨by decide, rfl⟩, rfl, rfl, by decide⟩
/-- The first and the eighth rising edge of a byte. -/
theorem witness_RisingEdges : Configured startA ∧ startA.spi.bitIndex = 7#3 ∧ startA.spi.priorClock = false ∧
    (edges startA.pins false []).length = 2 * 0 ∧
    (edges startA.pins false [0x01, 0x00, 0x03, 0x02, 0x01, 0x00, 0x01, 0x00, 0x01, 0x00, 0x01, 0x00, 0x01, 0x00]).length =
      2 * 7 ∧
    (0x01#8).getLsbD startA.pins.select.toNat = false ∧ (0x01#8).getLsbD startA.pins.clock.toNat = true :=
  ⟨⟨by decide, rfl⟩, rfl, rfl, by decide, by decide, by decide, by decide⟩
theorem witness_Command : WF lastA.pins ∧ lastA.spi.priorClock = true ∧ lastA.spi.bitIndex = 0#3 ∧ lastA.spi.outputQueue = [] ∧
    (if false then lastA.spi.inputBuffer ||| 0x01#8 else lastA.spi.inputBuffer) = 0x40#8 := by decide
theorem witness_ResponseWaits : let s := cardA (spiOf true 0 0x00 [0x00, 0xFF] false 0x40)
    WF s.pins ∧ s.spi.priorClock = true ∧ s.spi.bitIndex = 0#3 ∧
    (if false then s.spi.inputBuffer ||| 0x01#8 else s.spi.inputBuffer) = 0x40#8 := by decide
theorem witness_PowerOn : WF midB.pins ∧ ∃ r, exec .reset midB = .next r := ⟨by decide, _, rfl⟩
theorem witness_FullDuplex : Configured startA ∧ startA.spi.bitIndex = 7#3 ∧ startA.spi.inputBuffer = 0x00#8 ∧
    startA.spi.priorClock = false := ⟨⟨by decide, rfl⟩, rfl, rfl, rfl⟩
theorem witness_Reselection : WF midB.pins ∧ ∀ q ∈ [0x24#8, 0x04#8], q &&& midB.masks.select ≠ 0#8 := by decide
/-- A state that meets the invariant, clock high in the middle of a byte, with a falling edge about to come. -/
theorem witness_Invariant : Inv (midB.present (clockCall midB.masks false true)) ∧
    ∃ t, step (midB.present (clockCall midB.masks false true)) = .next t :=
  ⟨⟨⟨by decide, rfl⟩, by decide, by decide, by decide, by decide, by decide⟩, ⟨_, rfl⟩⟩
theorem witness_Step : WF midB.pins ∧ (midB.present .read).pending = .read :: [] ∧ midB.pending = [] := by decide
/-- Both clauses of ConstructRefusesExactlyTheIllFormed. -/
theorem witness_Construct : WF Config.pmB ∧ ¬ WF { clock := 0, dataOut := 1, dataIn := 7, select := 7 } := by decide
/-- A Card constructed with PM_B and an image, and a run of four calls on it. -/
theorem witness_ConstructedRun : ∃ s, construct Config.pmB [0x55#8] = .next s ∧
    ∃ t rs, runCalls [clockCall s.masks true true, .read, resetCall, clockCall s.masks false true] s = .next (t, rs) :=
  ⟨_, rfl, _, _, rfl⟩

end Sys2Proof.Tests
end

/-! # Construction, and the invariant along every run of a constructed Card (R9, R38, R122 d, R203, R230, R242) -/

namespace Sys2Proof.Machine

/-! ## What one host call can do -/

/-- What a WRITE can leave (R131, R134 to R137). The last two cases carry the data-out level the port byte shows. -/
inductive WriteOutcome (s : State) : State → Prop
  /-- Deselected, or the clock level unchanged. -/
  | idle : WriteOutcome s (s.answer .nothing)
  | rise : s.spi.priorClock = false → WriteOutcome s ((s.setPriorClock true).presentBit.answer .nothing)
  | fallMid (d : Bool) : s.spi.priorClock = true → s.spi.bitIndex ≠ 0#3 →
      WriteOutcome s (((s.setPriorClock false).captureBit s.spi.bitIndex d).advance.answer .nothing)
  | fallLast (d : Bool) : s.spi.priorClock = true → s.spi.bitIndex = 0#3 →
      WriteOutcome s ((s.setPriorClock false).captureBit 0#3 d).completeByte

/-- Every WRITE is performed, with one of the four outcomes. -/
theorem execWrite_outcome (p : Byte) (s : State) : ∃ t, execWrite p s = .next t ∧ WriteOutcome s t := by
  obtain ⟨hdesel, hhold, hrise, hmid, hlast⟩ := execWrite_cases p s _ rfl
  generalize sampleLevels s.masks p = l at *
  cases hsel : l.select
  case true => exact ⟨_, hdesel hsel, .idle⟩
  cases hprior : s.spi.priorClock <;> cases hclock : l.clock
  case false.false => exact ⟨_, hhold hsel (hclock.trans hprior.symm), .idle⟩
  case true.true => exact ⟨_, hhold hsel (hclock.trans hprior.symm), .idle⟩
  case false.true => exact ⟨_, hrise hsel hprior hclock, .rise hprior⟩
  case true.false =>
    by_cases hbit : s.spi.bitIndex = 0#3
    · exact ⟨_, hlast hsel hprior hclock hbit, .fallLast _ hprior hbit⟩
    · exact ⟨_, hmid hsel hprior hclock hbit, .fallMid _ hprior hbit⟩

theorem completeByte_frame (s : State) : s.completeByte.pins = s.pins ∧ s.completeByte.masks = s.masks ∧
    s.completeByte.storage = s.storage ∧ s.completeByte.pending = s.pending := by
  simp [State.completeByte_eq]

/-- No WRITE touches the configuration or the host's waiting calls (R20, R21, R31). -/
theorem WriteOutcome.frame {s t : State} (h : WriteOutcome s t) :
    t.pins = s.pins ∧ t.masks = s.masks ∧ t.storage = s.storage ∧ t.pending = s.pending := by
  cases h with
  | idle => simp
  | rise => simp
  | fallMid => simp
  | fallLast d => simpa using completeByte_frame ((s.setPriorClock false).captureBit 0#3 d)

/-- A host call requests one of the four host-visible operations (R72, R13). -/
theorem decodeCall_cases (c : HostCall) :
    decodeCall c = .reset ∨ (∃ p, decodeCall c = .write p) ∨ decodeCall c = .nop ∨ decodeCall c = .read := by
  cases c with
  | read => exact .inr (.inr (.inr rfl))
  | strobe word portIn =>
    simp only [decodeCall, decodeStrobe]
    cases word.getLsbD 1 <;> cases word.getLsbD 0 <;> simp

/-! ## The invariant, update by update -/

/-- The invariant speaks of the PinMap, the masks and the protocol state alone. -/
theorem Inv.of_same {s t : State} (h : Inv s) (hpins : t.pins = s.pins) (hmasks : t.masks = s.masks)
    (hspi : t.spi = s.spi) : Inv t := by
  obtain ⟨⟨hwf, hm⟩, hin, hbuf, hqueue, hhigh, hlow⟩ := h
  refine ⟨⟨hpins ▸ hwf, ?_⟩, hspi ▸ hin, hspi ▸ hbuf, hspi ▸ hqueue, hspi ▸ hhigh, hspi ▸ hlow⟩
  rw [hmasks, hpins, hm]

theorem Inv.answer {s : State} (h : Inv s) (r : Result) : Inv (s.answer r) := h.of_same rfl rfl rfl

/-- A rising edge puts on the line the very bit `line_high` speaks of (R135). -/
theorem Inv.rise {s : State} (h : Inv s) : Inv (s.setPriorClock true).presentBit where
  configured := ⟨h.configured.pins_wf, h.configured.masks_eq⟩
  input_clear := h.input_clear
  buffer_known := h.buffer_known
  queue_known := h.queue_known
  line_high _ := rfl
  line_low hprior := by simp at hprior

/-- Counting down inside a byte does not underflow (R136). -/
theorem toNat_sub_one_add_one (i : Idx3) (hi : i ≠ 0#3) : (i - 1#3).toNat + 1 = i.toNat := by
  revert i; decide

/-- A capture leaves the bits below its position alone (R143 b). -/
theorem captureBit_getLsbD_of_lt (s : State) (i : Idx3) (d : Bool) (k : Nat) (hk : k < i.toNat) :
    (s.captureBit i d).spi.inputBuffer.getLsbD k = s.spi.inputBuffer.getLsbD k := by
  cases d with
  | false => rfl
  | true =>
    have hk8 : k < 8 := by omega
    simp [setBit_getLsbD _ i k hk8, hk.ne]

/-- A falling edge inside a byte captures above the bits still to come, and the line keeps the bit just sampled (R136). -/
theorem Inv.fallMid {s : State} (h : Inv s) (d : Bool) (hprior : s.spi.priorClock = true) (hbit : s.spi.bitIndex ≠ 0#3) :
    Inv ((s.setPriorClock false).captureBit s.spi.bitIndex d).advance where
  configured := ⟨by simpa using h.configured.pins_wf, by simpa using h.configured.masks_eq⟩
  input_clear k hk := by
    have hdown := toNat_sub_one_add_one _ hbit
    simp only [State.advance_spi, State.captureBit_spi, State.setPriorClock_spi] at hk
    have hlt : k < s.spi.bitIndex.toNat := by omega
    calc ((s.setPriorClock false).captureBit s.spi.bitIndex d).spi.inputBuffer.getLsbD k
        = s.spi.inputBuffer.getLsbD k := captureBit_getLsbD_of_lt (s.setPriorClock false) _ d k hlt
      _ = false := h.input_clear k hlt.le
  buffer_known := by simpa using h.buffer_known
  queue_known := by simpa using h.queue_known
  line_high hhigh := by simp at hhigh
  line_low _ _ := by
    simpa only [State.advance_spi, State.captureBit_spi, State.setPriorClock_spi, toNat_sub_one_add_one _ hbit]
      using h.line_high hprior

/-- A command queues only bytes the card can send (R122 d, R161). -/
theorem queueAfterCommand_known (c : Spi) (rx : Byte) (h : ∀ b ∈ c.outputQueue, b ∈ cardBytes) :
    ∀ b ∈ c.queueAfterCommand rx, b ∈ cardBytes := by
  have hresponse : ∀ b ∈ cmd40Response, b ∈ cardBytes := by decide
  unfold Spi.queueAfterCommand
  split
  · exact List.forall_mem_append.mpr ⟨h, hresponse⟩
  · exact h

/-- The byte a refresh takes is a known one, the default of an empty queue included (R121, R163). -/
theorem headD_queueDefault_known (q : List Byte) (h : ∀ b ∈ q, b ∈ cardBytes) : q.headD queueDefault ∈ cardBytes := by
  cases q with
  | nil => decide
  | cons b bs => exact h b List.mem_cons_self

/-- The end of a byte: the input buffer is clear, and at bit index 7 with the clock low the line is free (R137). -/
theorem Inv.completeByte {s : State} (hcard : Configured s) (hprior : s.spi.priorClock = false)
    (hqueue : ∀ b ∈ s.spi.outputQueue, b ∈ cardBytes) : Inv s.completeByte := by
  have hafter := queueAfterCommand_known s.spi s.spi.inputBuffer hqueue
  rw [State.completeByte_eq]
  exact
    { configured := ⟨hcard.pins_wf, hcard.masks_eq⟩
      input_clear := by simp [clearedInput]
      buffer_known := headD_queueDefault_known _ hafter
      queue_known := fun b hb => hafter b (List.mem_of_mem_tail hb)
      line_high := by simp [hprior]
      line_low := by simp [firstBitIndex] }

theorem Inv.fallLast {s : State} (h : Inv s) (d : Bool) :
    Inv ((s.setPriorClock false).captureBit 0#3 d).completeByte :=
  Inv.completeByte ⟨by simpa using h.configured.pins_wf, by simpa using h.configured.masks_eq⟩ (by simp)
    (by simpa using h.queue_known)

/-- What RESET and construction leave meets the invariant (R37, R230). -/
theorem inv_of_spi_initial {s : State} (hcard : Configured s) (hspi : s.spi = Spi.initial) : Inv s := by
  refine ⟨hcard, ?_, ?_, ?_, ?_, ?_⟩ <;> rw [hspi]
  · exact fun k _ => BitVec.getLsbD_zero
  all_goals decide

/-! ## The invariant along a run -/

theorem WriteOutcome.inv {s t : State} (h : WriteOutcome s t) (hinv : Inv s) : Inv t := by
  cases h with
  | idle => exact hinv.answer _
  | rise => exact hinv.rise.answer _
  | fallMid d hprior hbit => exact (hinv.fallMid d hprior hbit).answer _
  | fallLast d => exact hinv.fallLast d

/-- Every host call is performed, and it keeps the invariant, the PinMap and the image. -/
theorem exec_decodeCall_keeps_inv (c : HostCall) {s : State} (h : Inv s) :
    ∃ t, exec (decodeCall c) s = .next t ∧ Inv t ∧ t.pins = s.pins ∧ t.storage = s.storage := by
  obtain hc | ⟨p, hc⟩ | hc | hc := decodeCall_cases c <;> rw [hc]
  · exact ⟨_, rfl, inv_of_spi_initial ⟨h.configured.pins_wf, rfl⟩ rfl, rfl, rfl⟩
  · obtain ⟨t, hexec, hout⟩ := execWrite_outcome p s
    obtain ⟨hpins, -, hstorage, -⟩ := hout.frame
    exact ⟨t, hexec, hout.inv h, hpins, hstorage⟩
  · exact ⟨_, rfl, h.answer _, rfl, rfl⟩
  · exact ⟨_, rfl, h.answer _, rfl, rfl⟩

/-- A run of host calls is performed call by call, one result each, and keeps the invariant, the PinMap and the image. -/
theorem runCalls_keeps_inv (calls : List HostCall) : ∀ {s : State}, Inv s →
    ∃ t rs, runCalls calls s = .next (t, rs) ∧ rs.length = calls.length ∧ Inv t ∧ t.pins = s.pins ∧
      t.storage = s.storage := by
  induction calls with
  | nil => exact fun {s} h => ⟨s, [], rfl, rfl, h, rfl, rfl⟩
  | cons c cs ih =>
    intro s h
    obtain ⟨s', hexec, hinv', hpins', hstorage'⟩ := exec_decodeCall_keeps_inv c h
    obtain ⟨t, rs, hrun, hlen, hinv, hpins, hstorage⟩ := ih hinv'
    exact ⟨t, s'.result :: rs, runCalls_cons c cs s s' t rs hexec hrun, congrArg (· + 1) hlen, hinv,
      hpins.trans hpins', hstorage.trans hstorage'⟩

/-- A constructed Card meets the invariant and holds its PinMap and image (R9, R230, R233). -/
theorem construct_meets_inv {pins : PinMap} {image : List Byte} {s : State} (h : construct pins image = .next s) :
    Inv s ∧ s.pins = pins ∧ s.storage = image := by
  obtain ⟨-, hrefused⟩ | ⟨hwf, hnext⟩ := construct_cases pins image
  · simp [hrefused] at h
  · cases hnext.symm.trans h
    exact ⟨inv_of_spi_initial ⟨hwf, rfl⟩ rfl, rfl, rfl⟩

/-- Settles O53: the invariant holds of a constructed Card and every host call keeps it, so it holds along the run. -/
theorem runsOfAConstructedCardMeetTheInvariant : Obligations.RunsOfAConstructedCardMeetTheInvariant := by
  intro pins image calls s hconstruct
  obtain ⟨hinv, rfl, rfl⟩ := construct_meets_inv hconstruct
  exact runCalls_keeps_inv calls hinv

/-- Settles O52: `construct` tests exactly well-formedness, and RESET leaves the Card it gives as it is. -/
theorem constructRefusesExactlyTheIllFormed : Obligations.ConstructRefusesExactlyTheIllFormed := by
  intro pins image
  refine ⟨pinMap_wf_iff pins, ?_⟩
  obtain ⟨hill, hrefused⟩ | ⟨hwf, hnext⟩ := construct_cases pins image
  · exact ⟨fun _ => hrefused, fun hwf => absurd hwf hill⟩
  · exact ⟨fun hill => absurd hwf hill, fun _ => ⟨_, hnext, ⟨hwf, rfl⟩, rfl, rfl, rfl, rfl⟩⟩

end Sys2Proof.Machine

/-! # What every operation leaves: the invariant, the configuration, the image, the protocol state (R20 to R38) -/

namespace Sys2Proof.Machine

/-! ## The invariant, step by step -/

/-- Settles O43: a step is the host's next call, and every host call keeps the invariant. -/
theorem everyStepKeepsTheInvariant : Obligations.EveryStepKeepsTheInvariant := by
  intro s t hinv hstep
  have hcall : Inv s.takeCall := hinv.of_same rfl rfl rfl
  obtain ⟨t', hexec, hinv', -, -⟩ := exec_decodeCall_keeps_inv s.nextCall hcall
  cases hexec.symm.trans hstep
  exact hinv'

/-- Settles O42: `State.reset` has the masks of its PinMap and the protocol state RESET leaves. -/
theorem resetStateMeetsTheInvariant : Obligations.ResetStateMeetsTheInvariant :=
  inv_of_spi_initial ⟨by decide, rfl⟩ rfl

/-! ## The bit index -/

/-- R81: a level is low exactly when the masked byte is zero. -/
theorem level_eq_false_iff (p m : Byte) : level p m = false ↔ p &&& m = 0#8 := by simp [level]

/-- R137: a completed byte leaves bit index 7. -/
theorem completeByte_bitIndex (s : State) : s.completeByte.spi.bitIndex = 7#3 := rfl

/-- Settles O3: RESET and the end of a byte write 7, and a falling edge at bit index 0 is the end of a byte. -/
theorem bitIndexIsSevenAfterResetAndAfterAByte : Obligations.BitIndexIsSevenAfterResetAndAfterAByte := by
  refine ⟨fun s _ => Nat.le_of_lt_succ s.spi.bitIndex.isLt, fun s _ => ⟨_, rfl, rfl⟩, ?write,
    fun s d _ _ _ => ⟨_, rfl, completeByte_bitIndex _⟩⟩
  intro s p _ hselect hprior hclock hbit
  obtain ⟨-, -, -, -, hlast⟩ := execWrite_cases p s _ rfl
  have hsel : level p s.masks.select = false := (level_eq_false_iff _ _).mpr hselect
  have hclk : level p s.masks.clock = false := (level_eq_false_iff _ _).mpr hclock
  exact ⟨_, hlast hsel hprior hclk hbit, completeByte_bitIndex _⟩

/-! ## The configuration and the host's calls -/

theorem boundary_frame (s : State) (rx tx : Byte) : (s.boundary rx tx).pins = s.pins ∧
    (s.boundary rx tx).masks = s.masks ∧ (s.boundary rx tx).storage = s.storage ∧
    (s.boundary rx tx).pending = s.pending := by
  simp [State.boundary_eq]

/-- What an operation can do to the fields outside the protocol state: the masks are kept, or MASKS or RESET derives them
afresh; nothing else moves (R20, R21, R31, R100). -/
theorem exec_frame {i : Instr} {s t : State} (h : exec i s = .next t) :
    t.pins = s.pins ∧ t.storage = s.storage ∧ t.pending = s.pending ∧
    (t.masks = s.masks ∨ (i = .masks ∨ i = .reset) ∧ t.masks = deriveMasks s.pins) := by
  cases i with
  | reset => cases h; exact ⟨rfl, rfl, rfl, .inr ⟨.inr rfl, rfl⟩⟩
  | masks => cases h; exact ⟨rfl, rfl, rfl, .inr ⟨.inl rfl, rfl⟩⟩
  | write p =>
    obtain ⟨t', hexec, hout⟩ := execWrite_outcome p s
    cases hexec.symm.trans h
    obtain ⟨hpins, hmasks, hstorage, hpending⟩ := hout.frame
    exact ⟨hpins, hstorage, hpending, .inl hmasks⟩
  | writeFallMid d => cases h; simp
  | writeFallLast d =>
    cases h
    obtain ⟨hpins, hmasks, hstorage, hpending⟩ := completeByte_frame ((s.setPriorClock false).captureBit 0#3 d)
    simp [hpins, hmasks, hstorage, hpending]
  | boundary rx tx =>
    cases h
    obtain ⟨hpins, hmasks, hstorage, hpending⟩ := boundary_frame s rx tx
    exact ⟨hpins, hstorage, hpending, .inl hmasks⟩
  | nop | read | writeDesel | writeHoldLo | writeHoldHi | writeRise | cmd40 | cmdNone | sample | encode | enqueue
  | dequeueOrDefault | event => cases h; exact ⟨rfl, rfl, rfl, .inl rfl⟩

/-- Settles O45: masks derived afresh from the PinMap of a configured Card are the masks that stand there. -/
theorem configurationNeverChanges : Obligations.ConfigurationNeverChanges := by
  intro i s t _ h
  obtain ⟨hpins, hstorage, hpending, hkept | ⟨hi, hderived⟩⟩ := exec_frame h
  · exact ⟨hpins, hstorage, hpending, fun _ _ => hkept, fun _ => hkept⟩
  · refine ⟨hpins, hstorage, hpending, fun hmasks hreset => ?_, fun hcard => hderived.trans hcard.masks_eq.symm⟩
    exact absurd hi (not_or.mpr ⟨hmasks, hreset⟩)

/-! ## The image -/

/-- The same machine with another image (R31). -/
def State.withStorage (s : State) (image : List Byte) : State := { s with storage := image }

@[simp] theorem State.withStorage_masks (s : State) (im : List Byte) : (s.withStorage im).masks = s.masks := rfl
@[simp] theorem State.withStorage_spi (s : State) (im : List Byte) : (s.withStorage im).spi = s.spi := rfl

theorem State.captureBit_withStorage (s : State) (im : List Byte) (i : Idx3) (d : Bool) :
    (s.withStorage im).captureBit i d = (s.captureBit i d).withStorage im := by
  cases d <;> rfl

theorem State.boundary_withStorage (s : State) (im : List Byte) (rx tx : Byte) :
    (s.withStorage im).boundary rx tx = (s.boundary rx tx).withStorage im := by
  simp [State.boundary_eq, State.withStorage]

theorem State.completeByte_withStorage (s : State) (im : List Byte) :
    (s.withStorage im).completeByte = s.completeByte.withStorage im :=
  congrArg State.startByte (s.boundary_withStorage im _ _)

/-- The falling edge inside a byte does the same with another image (R136). -/
theorem State.fallMid_withStorage (s : State) (im : List Byte) (i : Idx3) (d : Bool) :
    (((s.withStorage im).setPriorClock false).captureBit i d).advance.answer .nothing =
      (((s.setPriorClock false).captureBit i d).advance.answer .nothing).withStorage im :=
  congrArg (fun u : State => u.advance.answer .nothing) ((s.setPriorClock false).captureBit_withStorage im i d)

/-- The falling edge at the end of a byte does the same with another image (R137). -/
theorem State.fallLast_withStorage (s : State) (im : List Byte) (d : Bool) :
    (((s.withStorage im).setPriorClock false).captureBit 0#3 d).completeByte =
      ((s.setPriorClock false).captureBit 0#3 d).completeByte.withStorage im :=
  (congrArg State.completeByte ((s.setPriorClock false).captureBit_withStorage im 0#3 d)).trans
    (State.completeByte_withStorage _ im)

/-- A WRITE does the same with another image: its levels and its bit index, which choose the class, are the same. -/
theorem execWrite_withStorage (p : Byte) (s : State) (im : List Byte) :
    ∃ t, execWrite p s = .next t ∧ execWrite p (s.withStorage im) = .next (t.withStorage im) := by
  obtain ⟨hdesel, hhold, hrise, hmid, hlast⟩ := execWrite_cases p s _ rfl
  obtain ⟨hdesel', hhold', hrise', hmid', hlast'⟩ := execWrite_cases p (s.withStorage im) (sampleLevels s.masks p) rfl
  generalize sampleLevels s.masks p = l at *
  cases hsel : l.select
  case true => exact ⟨_, hdesel hsel, hdesel' hsel⟩
  by_cases hclock : l.clock = s.spi.priorClock
  case pos => exact ⟨_, hhold hsel hclock, hhold' hsel hclock⟩
  cases hprior : s.spi.priorClock
  case false =>
    have hhigh : l.clock = true := by simpa [hprior] using hclock
    exact ⟨_, hrise hsel hprior hhigh, hrise' hsel hprior hhigh⟩
  case true =>
    have hlow : l.clock = false := by simpa [hprior] using hclock
    by_cases hbit : s.spi.bitIndex = 0#3
    · exact ⟨_, hlast hsel hprior hlow hbit,
        (hlast' hsel hprior hlow hbit).trans (congrArg _ (s.fallLast_withStorage im _))⟩
    · exact ⟨_, hmid hsel hprior hlow hbit,
        (hmid' hsel hprior hlow hbit).trans (congrArg _ (s.fallMid_withStorage im _ _))⟩

/-- Every operation answers, and does the same with another image (R31, D10). -/
theorem exec_withStorage (i : Instr) (s : State) (im : List Byte) :
    ∃ t, exec i s = .next t ∧ exec i (s.withStorage im) = .next (t.withStorage im) := by
  cases i with
  | write p => exact execWrite_withStorage p s im
  | writeFallMid d => exact ⟨_, rfl, congrArg _ (s.fallMid_withStorage im _ d)⟩
  | writeFallLast d => exact ⟨_, rfl, congrArg _ (s.fallLast_withStorage im d)⟩
  | boundary rx tx => exact ⟨_, rfl, congrArg _ (s.boundary_withStorage im rx tx)⟩
  | reset | nop | read | writeDesel | writeHoldLo | writeHoldHi | writeRise | cmd40 | cmdNone | masks | sample | encode
  | enqueue | dequeueOrDefault | event => exact ⟨_, rfl, rfl⟩

/-- Settles O46: each operation commutes with the change of the image, and keeps the image it has. -/
theorem storageIsNeitherReadNorWritten : Obligations.StorageIsNeitherReadNorWritten := by
  intro i s image _
  obtain ⟨t, hexec, hother⟩ := exec_withStorage i s image
  obtain ⟨-, hstorage, -, -⟩ := exec_frame hexec
  exact ⟨t, hexec, hstorage, hother⟩

/-! ## The protocol state under the operations other than RESET and WRITE -/

/-- R120: ENQUEUE writes the queue alone. -/
theorem Spi.push_frame (c : Spi) (bs : List Byte) : { c.push bs with outputQueue := c.outputQueue } = c := rfl

/-- R121: DEQUEUE_OR_DEFAULT writes the queue alone. -/
theorem Spi.afterPop_frame (c : Spi) : { c.afterPop with outputQueue := c.outputQueue } = c := by
  rw [Spi.afterPop_eq]

/-- R160: BOUNDARY writes the queue and the output byte alone. -/
theorem boundary_spi_frame (s : State) (rx tx : Byte) : { (s.boundary rx tx).spi with
    outputQueue := s.spi.outputQueue, outputBuffer := s.spi.outputBuffer } = s.spi := by
  rw [State.boundary_eq]

/-- Settles O47: the configuration by the frame of every operation, the protocol state group by group. -/
theorem otherOperationsFrame : Obligations.OtherOperationsFrame := by
  intro i s t _ h
  obtain ⟨hpins, hstorage, hpending, -⟩ := exec_frame h
  refine ⟨hpins, hstorage, hpending, ?keepsAll, ?keepsAllButQueue, ?boundary⟩
  case keepsAll =>
    rintro (rfl | rfl | rfl | ⟨p, rfl⟩ | ⟨l, rfl⟩ | ⟨rx, tx, rfl⟩ | ⟨rx, rfl⟩) <;> cases h <;> rfl
  case keepsAllButQueue =>
    rintro (⟨bs, rfl⟩ | rfl | rfl) <;> cases h
    · exact ⟨rfl, s.spi.push_frame bs⟩
    · exact ⟨rfl, s.spi.afterPop_frame⟩
    · exact ⟨rfl, s.spi.push_frame cmd40Response⟩
  case boundary =>
    rintro ⟨rx, tx, rfl⟩
    cases h
    obtain ⟨-, hmasks, -, -⟩ := boundary_frame s rx tx
    exact ⟨hmasks, boundary_spi_frame s rx tx⟩

end Sys2Proof.Machine

/-! # READ, and the framing of bytes by falling edges (R55, R57, R132, R183) -/

namespace Sys2Proof.Machine

/-! ## READ -/

/-- R180: READ answers the byte `port_out` shows. -/
theorem exec_read (s : State) : exec .read s = .next (s.answer (.byte s.portOut)) := rfl

/-- R71: `port_out` does not depend on what the last operation returned. -/
@[simp] theorem State.portOut_answer (s : State) (r : Result) : (s.answer r).portOut = s.portOut := rfl

@[simp] theorem State.answer_answer (s : State) (r q : Result) : (s.answer r).answer q = s.answer q := rfl

/-- Settles O23: what READ returns is a function of the masks and the line, and READ writes neither. -/
theorem readIsIdempotent : Obligations.ReadIsIdempotent := fun s _ =>
  ⟨_, s.portOut, exec_read s, rfl, by rw [exec_read, State.portOut_answer, State.answer_answer]⟩

/-! ## The edges of a WRITE, as the port shows them and as the Card takes them -/

/-- The Card takes the edges `es` of one WRITE, at most one, and is left in the given state (R131, R134 to R137). -/
inductive TakesEdges (s : State) : List Edge → State → Prop
  /-- Deselected, or the clock level unchanged. -/
  | idle : TakesEdges s [] (s.answer .nothing)
  | rise (d : Bool) : s.spi.priorClock = false →
      TakesEdges s [{ rising := true, dataOut := d }] ((s.setPriorClock true).presentBit.answer .nothing)
  | fallMid (d : Bool) : s.spi.priorClock = true → s.spi.bitIndex ≠ 0#3 →
      TakesEdges s [{ rising := false, dataOut := d }]
        (((s.setPriorClock false).captureBit s.spi.bitIndex d).advance.answer .nothing)
  | fallLast (d : Bool) : s.spi.priorClock = true → s.spi.bitIndex = 0#3 →
      TakesEdges s [{ rising := false, dataOut := d }] ((s.setPriorClock false).captureBit 0#3 d).completeByte

theorem TakesEdges.writeOutcome {s t : State} {es : List Edge} (h : TakesEdges s es t) : WriteOutcome s t := by
  cases h with
  | idle => exact .idle
  | rise _ hprior => exact .rise hprior
  | fallMid d hprior hbit => exact .fallMid d hprior hbit
  | fallLast d hprior hbit => exact .fallLast d hprior hbit

/-- No WRITE unsettles the configuration (R20). -/
theorem WriteOutcome.configured {s t : State} (h : WriteOutcome s t) (hcard : Configured s) : Configured t := by
  obtain ⟨hpins, hmasks, -, -⟩ := h.frame
  exact ⟨hpins ▸ hcard.pins_wf, by rw [hmasks, hpins, hcard.masks_eq]⟩

/-- A deselected byte shows no edge (R131). -/
theorem edges_cons_deselected {pins : PinMap} {p : Byte} (prior : Bool) (ps : List Byte)
    (hsel : pinLevel p pins.select = true) : edges pins prior (p :: ps) = edges pins prior ps := by
  rw [edges, if_pos hsel]

/-- A byte that keeps the clock level shows no edge (R134). -/
theorem edges_cons_hold {pins : PinMap} {p : Byte} {prior : Bool} (ps : List Byte)
    (hclock : pinLevel p pins.clock = prior) : edges pins prior (p :: ps) = edges pins prior ps := by
  rw [edges, if_pos hclock, ite_self]

/-- A selected byte that moves the clock shows one edge, with its data-out level (R132, R141). -/
theorem edges_cons_edge {pins : PinMap} {p : Byte} {prior : Bool} (ps : List Byte)
    (hsel : pinLevel p pins.select = false) (hclock : pinLevel p pins.clock ≠ prior) :
    edges pins prior (p :: ps) = { rising := pinLevel p pins.clock, dataOut := pinLevel p pins.dataOut } ::
      edges pins (pinLevel p pins.clock) ps := by
  rw [edges, if_neg (Bool.not_eq_true _ ▸ hsel), if_neg hclock]

/-- SAMPLE on a configured Card reads the pins (R101, D4). -/
theorem Configured.sampleLevels_eq {s : State} (h : Configured s) (p : Byte) : sampleLevels s.masks p =
    { select := pinLevel p s.pins.select, dataOut := pinLevel p s.pins.dataOut, clock := pinLevel p s.pins.clock } :=
  h.masks_eq ▸ sampleLevels_deriveMasks s.pins p

/-- On a configured Card a WRITE takes exactly the edge its port byte shows, and the next byte is compared with the clock
level the Card then holds (R132, R133). -/
theorem execWrite_takesEdges (p : Byte) {s : State} (hcard : Configured s) :
    ∃ t es, execWrite p s = .next t ∧ TakesEdges s es t ∧
      ∀ ps, edges s.pins s.spi.priorClock (p :: ps) = es ++ edges s.pins t.spi.priorClock ps := by
  obtain ⟨hdesel, hhold, hrise, hmid, hlast⟩ := execWrite_cases p s _ (hcard.sampleLevels_eq p)
  cases hsel : pinLevel p s.pins.select
  case true => exact ⟨_, [], hdesel hsel, .idle, fun ps => edges_cons_deselected _ ps hsel⟩
  by_cases hclock : pinLevel p s.pins.clock = s.spi.priorClock
  case pos => exact ⟨_, [], hhold hsel hclock, .idle, fun ps => edges_cons_hold ps hclock⟩
  have hedge := fun ps => edges_cons_edge ps hsel hclock
  cases hprior : s.spi.priorClock
  case false =>
    have hhigh : pinLevel p s.pins.clock = true := by simpa [hprior] using hclock
    rw [hprior, hhigh] at hedge
    exact ⟨_, _, hrise hsel hprior hhigh, .rise _ hprior, hedge⟩
  case true =>
    have hlow : pinLevel p s.pins.clock = false := by simpa [hprior] using hclock
    rw [hprior, hlow] at hedge
    by_cases hbit : s.spi.bitIndex = 0#3
    · refine ⟨_, _, hlast hsel hprior hlow hbit, .fallLast _ hprior hbit, ?_⟩
      simpa [State.completeByte_eq] using hedge
    · refine ⟨_, _, hmid hsel hprior hlow hbit, .fallMid _ hprior hbit, ?_⟩
      simpa using hedge

/-! ## Framing -/

@[simp] theorem fallingData_append (es fs : List Edge) : fallingData (es ++ fs) = fallingData es ++ fallingData fs := by
  simp [fallingData]

theorem eventsOf_append (rs qs : List Result) : eventsOf (rs ++ qs) = eventsOf rs ++ eventsOf qs := List.filterMap_append

/-- One WRITE: a falling edge is paid for by one count of the bit index, or by an event, which is worth the eight counts
from 0 back to 7 and one more (R136, R137). -/
theorem TakesEdges.framing {s t : State} {es : List Edge} (h : TakesEdges s es t) :
    s.spi.bitIndex.toNat + 8 * (eventsOf [t.result]).length = t.spi.bitIndex.toNat + (fallingData es).length := by
  cases h with
  | idle => rfl
  | rise => rfl
  | fallMid d _ hbit => simpa [fallingData] using (toNat_sub_one_add_one _ hbit).symm
  | fallLast d _ hbit => simp [fallingData, hbit, State.completeByte_eq, firstBitIndex]

/-- The same balance along any sequence of WRITEs, from any bit index. -/
theorem runCalls_writeCalls_framing (ps : List Byte) : ∀ {s : State}, Configured s →
    ∃ t rs, runCalls (writeCalls ps) s = .next (t, rs) ∧
      s.spi.bitIndex.toNat + 8 * (eventsOf rs).length =
        t.spi.bitIndex.toNat + (fallingData (edges s.pins s.spi.priorClock ps)).length := by
  induction ps with
  | nil => exact fun {s} _ => ⟨s, [], rfl, rfl⟩
  | cons p ps ih =>
    intro s hcard
    obtain ⟨s', es, hexec, htakes, hedges⟩ := execWrite_takesEdges p hcard
    obtain ⟨hpins, -, -, -⟩ := htakes.writeOutcome.frame
    obtain ⟨t, rs, hrun, hrest⟩ := ih (htakes.writeOutcome.configured hcard)
    refine ⟨t, s'.result :: rs, runCalls_cons _ _ s s' t rs hexec hrun, ?_⟩
    have hfirst := htakes.framing
    have hevents : (eventsOf (s'.result :: rs)).length = (eventsOf [s'.result]).length + (eventsOf rs).length := by
      rw [← List.length_append, ← eventsOf_append, List.singleton_append]
    rw [hpins] at hrest
    rw [hedges, fallingData_append, List.length_append, hevents]
    omega

/-- Settles O34: from bit index 7 the balance is `7 + 8 * events = bitIndex + falling edges`, and the bit index is at
most 7, so it is the division of the falling edges by eight. -/
theorem framingCountsFallingEdges : Obligations.FramingCountsFallingEdges := by
  intro s ps hcard hseven
  obtain ⟨t, rs, hrun, hbalance⟩ := runCalls_writeCalls_framing ps hcard
  have hstart : s.spi.bitIndex.toNat = 7 := congrArg BitVec.toNat hseven
  have hend : t.spi.bitIndex.toNat < 8 := t.spi.bitIndex.isLt
  exact ⟨t, rs, hrun, by omega, by omega⟩

end Sys2Proof.Machine

/-! # Words and operations: the three decode tables and the port byte (R70 to R79, R85, R100 to R102) -/

namespace Sys2Proof

/-! ## The word of an operation -/

/-- The family of round trips, gathered: a well-formed operation that has a word is what the word decodes to. -/
theorem decode_of_encode_eq_some {i : Instr} (hwf : i.wf = true) {w : OpWord} (h : encode i = some w) : decode w = i := by
  have roundTrip : Laws.RoundTrip.Statement i := by
    cases i with
    | reset => exact Laws.RoundTrip.reset
    | write p => exact Laws.RoundTrip.write p
    | nop => exact Laws.RoundTrip.nop
    | read => exact Laws.RoundTrip.read
    | writeDesel => exact Laws.RoundTrip.writeDesel
    | writeHoldLo => exact Laws.RoundTrip.writeHoldLo
    | writeHoldHi => exact Laws.RoundTrip.writeHoldHi
    | writeRise => exact Laws.RoundTrip.writeRise
    | writeFallMid d => exact Laws.RoundTrip.writeFallMid d
    | writeFallLast d => exact Laws.RoundTrip.writeFallLast d
    | cmd40 => exact Laws.RoundTrip.cmd40
    | cmdNone rx => exact Laws.RoundTrip.cmdNone rx
    | masks => exact Laws.RoundTrip.masks
    | sample p => exact Laws.RoundTrip.sample p
    | encode l => exact Laws.RoundTrip.encode l
    | enqueue bs => exact Laws.RoundTrip.enqueue bs
    | dequeueOrDefault => exact Laws.RoundTrip.dequeueOrDefault
    | boundary rx tx => exact Laws.RoundTrip.boundary rx tx
    | event rx tx => exact Laws.RoundTrip.event rx tx
  exact roundTrip hwf w h

/-- The operations without a word are the seven internal ones (R79). -/
theorem encode_eq_none_iff (i : Instr) : encode i = none ↔
    i = .masks ∨ (∃ p, i = .sample p) ∨ (∃ l, i = .encode l) ∨ (∃ bs, i = .enqueue bs) ∨ i = .dequeueOrDefault ∨
      (∃ rx tx, i = .boundary rx tx) ∨ (∃ rx tx, i = .event rx tx) := by
  constructor
  · intro h
    cases i with
    | masks | sample | encode | enqueue | dequeueOrDefault | boundary | event => simp
    | reset | write | nop | read | writeDesel | writeHoldLo | writeHoldHi | writeRise | writeFallMid | writeFallLast
    | cmd40 | cmdNone => cases h
  · rintro (rfl | ⟨p, rfl⟩ | ⟨l, rfl⟩ | ⟨bs, rfl⟩ | rfl | ⟨rx, tx, rfl⟩ | ⟨rx, tx, rfl⟩) <;> rfl

/-- Settles O28: the round trip of each operation, and the operations without a word by constructor. -/
theorem decodeOfEncodeIsTheOperation : Obligations.DecodeOfEncodeIsTheOperation := fun i hwf =>
  ⟨fun _ h => decode_of_encode_eq_some hwf h, encode_eq_none_iff i⟩

/-! ## The strobe word (R72) -/

/-- A strobe word is a RESET, or 00, or 01. -/
theorem strobe_cases (a : BitVec 2) :
    (a.getLsbD 1 = true ∧ a ≠ 0b00#2 ∧ a ≠ 0b01#2) ∨ a = 0b00#2 ∨ a = 0b01#2 := by revert a; decide

/-- RESET wins over WRITE, whatever `wr` and the port byte (D7, log 9). -/
theorem decodeStrobe_of_rst {a : BitVec 2} (h : a.getLsbD 1 = true) (p : Byte) : decodeStrobe a p = .reset := by
  rw [decodeStrobe, h]

@[simp] theorem decodeStrobe_write (p : Byte) : decodeStrobe 0b01#2 p = .write p := rfl
@[simp] theorem decodeStrobe_nop (p : Byte) : decodeStrobe 0b00#2 p = .nop := rfl

/-- Two strobe words have one operation exactly when they share `rst`, or are both 00, or are both 01 with one port byte. -/
theorem decodeStrobe_eq_iff (a b : BitVec 2) (p q : Byte) : decodeStrobe a p = decodeStrobe b q ↔
    (a.getLsbD 1 = true ∧ b.getLsbD 1 = true) ∨ (a = 0b00#2 ∧ b = 0b00#2) ∨ (a = 0b01#2 ∧ b = 0b01#2 ∧ p = q) := by
  obtain ⟨ha, ha0, ha1⟩ | rfl | rfl := strobe_cases a <;> obtain ⟨hb, hb0, hb1⟩ | rfl | rfl := strobe_cases b <;>
    simp [decodeStrobe_of_rst, *]

theorem decodeStrobe_ne_read (a : BitVec 2) (p : Byte) : decodeStrobe a p ≠ .read := by
  obtain ⟨ha, -, -⟩ | rfl | rfl := strobe_cases a
  · simp [decodeStrobe_of_rst ha]
  · simp
  · simp

/-- Two host calls have one operation exactly when they agree on the bits the strobe table examines. -/
theorem decodeCall_eq_iff (c c' : HostCall) :
    decodeCall c = decodeCall c' ↔ (OpWord.host c).SameExaminedBits (.host c') := by
  cases c <;> cases c'
  case strobe.strobe a p b q => exact decodeStrobe_eq_iff a b p q
  case strobe.read a p => exact iff_of_false (decodeStrobe_ne_read a p) id
  case read.strobe b q => exact iff_of_false (decodeStrobe_ne_read b q).symm id
  case read.read => exact iff_of_true rfl trivial

/-! ## The pin word (R74) -/

/-- Every pin word matches a row. -/
theorem exists_pinRow (w : BitVec 4) : ∃ r ∈ pinRows, w &&& r.1 = r.2 := by revert w; decide

/-- The six classes of WRITE are all a pin word can decode to. -/
theorem decodePins_cases (w : BitVec 4) (d : Bool) : decodePins w d = .writeDesel ∨ decodePins w d = .writeHoldLo ∨
    decodePins w d = .writeHoldHi ∨ decodePins w d = .writeRise ∨ decodePins w d = .writeFallMid d ∨
    decodePins w d = .writeFallLast d := by
  revert w d; decide

/-- A pin word decodes as a row's pattern does exactly when it matches the row; the data-out level counts in the rows whose
mask is full, the falling ones. -/
theorem decodePins_eq_pattern_iff : ∀ r ∈ pinRows, ∀ (w : BitVec 4) (d c : Bool),
    decodePins w d = decodePins r.2 c ↔ w &&& r.1 = r.2 ∧ (r.1 = 0b1111#4 → c = d) := by
  simp only [pinRows, List.forall_mem_cons]
  refine ⟨?_, ?_, ?_, ?_, ?_, ?_, by simp⟩ <;> decide

/-- Two pin words have one operation exactly when they match one row. -/
theorem decodePins_eq_iff (v w : BitVec 4) (c d : Bool) :
    decodePins v c = decodePins w d ↔ (OpWord.pins v c).SameExaminedBits (.pins w d) := by
  constructor
  · intro h
    obtain ⟨r, hr, hv⟩ := exists_pinRow v
    have hpattern : decodePins v c = decodePins r.2 c := (decodePins_eq_pattern_iff r hr v c c).mpr ⟨hv, fun _ => rfl⟩
    obtain ⟨hw, hd⟩ := (decodePins_eq_pattern_iff r hr w d c).mp (h.symm.trans hpattern)
    exact ⟨r, hr, hv, hw, hd⟩
  · rintro ⟨r, hr, hv, hw, hd⟩
    calc decodePins v c = decodePins r.2 c := (decodePins_eq_pattern_iff r hr v c c).mpr ⟨hv, fun _ => rfl⟩
      _ = decodePins w d := ((decodePins_eq_pattern_iff r hr w d c).mpr ⟨hw, hd⟩).symm

/-! ## The command byte (R76) -/

/-- No two command bytes share an operation, since CMD_NONE keeps its byte (log 14). -/
theorem decodeCommand_eq_iff (a b : Byte) : decodeCommand a = decodeCommand b ↔ a = b := by
  refine ⟨fun h => ?_, congrArg _⟩
  simp only [decodeCommand, isCmd40, beq_iff_eq] at h
  split_ifs at h with ha hb hb
  · exact ha.trans hb.symm
  · exact Instr.cmdNone.inj h

/-! ## All three tables -/

/-- The number of a word's table: the strobe word, the pin word, the command byte. -/
def OpWord.table : OpWord → Nat
  | .host _ => 0
  | .pins _ _ => 1
  | .command _ => 2

/-- The class of a pin word is well-formed and has a pin word. -/
theorem decodePins_has_word (w : BitVec 4) (d : Bool) : (decodePins w d).wf = true ∧
    ∃ v c, encode (decodePins w d) = some (.pins v c) := by
  obtain h | h | h | h | h | h := decodePins_cases w d <;> rw [h] <;> exact ⟨rfl, _, _, rfl⟩

/-- The command of a byte is well-formed and has a command word. -/
theorem decodeCommand_has_word (rx : Byte) : (decodeCommand rx).wf = true ∧
    ∃ b, encode (decodeCommand rx) = some (.command b) := by
  by_cases h : isCmd40 rx = true
  · rw [decodeCommand, if_pos h]
    exact ⟨rfl, _, rfl⟩
  · rw [decodeCommand, if_neg h]
    exact ⟨by simpa [Instr.wf, isCmd40] using h, _, rfl⟩

/-- What a word decodes to is well-formed and has a word in the same table. -/
theorem decode_has_word (w : OpWord) : (decode w).wf = true ∧
    ∃ w', encode (decode w) = some w' ∧ w'.table = w.table := by
  cases w with
  | host call =>
    obtain h | ⟨p, h⟩ | h | h := Machine.decodeCall_cases call <;> rw [decode, h] <;> exact ⟨rfl, _, rfl, rfl⟩
  | pins v d =>
    obtain ⟨hwf, v', d', h⟩ := decodePins_has_word v d
    exact ⟨hwf, _, h, rfl⟩
  | command rx =>
    obtain ⟨hwf, b, h⟩ := decodeCommand_has_word rx
    exact ⟨hwf, _, h, rfl⟩

/-- Words of two tables never share an operation: the operation's own word stands in one table. -/
theorem table_eq_of_decode_eq {w w' : OpWord} (h : decode w = decode w') : w.table = w'.table := by
  obtain ⟨-, v, hv, htable⟩ := decode_has_word w
  obtain ⟨-, v', hv', htable'⟩ := decode_has_word w'
  have hword : v = v' := Option.some.inj (hv.symm.trans (h ▸ hv'))
  rw [← htable, ← htable', hword]

/-- Words compared by the bits one table examines are words of that table. -/
theorem OpWord.SameExaminedBits.table_eq {w w' : OpWord} (h : w.SameExaminedBits w') : w.table = w'.table := by
  cases w with
  | host c =>
    cases w' with
    | host => rfl
    | pins | command => cases c <;> exact h.elim
  | pins =>
    cases w' with
    | pins => rfl
    | host | command => exact h.elim
  | command =>
    cases w' with
    | command => rfl
    | host | pins => exact h.elim

/-- Two words have one operation exactly when only bits their table ignores differ. -/
theorem decode_eq_iff (w w' : OpWord) : decode w = decode w' ↔ w.SameExaminedBits w' := by
  by_cases htable : w.table = w'.table
  case neg => exact iff_of_false (mt table_eq_of_decode_eq htable) (mt OpWord.SameExaminedBits.table_eq htable)
  match w, w', htable with
  | .host c, .host c', _ => exact decodeCall_eq_iff c c'
  | .pins v c, .pins w d, _ => exact decodePins_eq_iff v w c d
  | .command a, .command b, _ => exact decodeCommand_eq_iff a b

/-- Settles O29: the operation's own word, and the tables compared one by one. -/
theorem everyWordHasAWellFormedOperation : Obligations.EveryWordHasAWellFormedOperation := by
  refine ⟨fun w => ?_, decode_eq_iff⟩
  obtain ⟨hwf, w', hword, -⟩ := decode_has_word w
  exact ⟨hwf, w', hword, decode_of_encode_eq_some hwf hword⟩

end Sys2Proof

namespace Sys2Proof.Machine

/-! ## The pin rows and written-out words (R72, R74, R76) -/

/-- Settles O26: the six rows tried on each of the sixteen pin words, with each data-out level. -/
theorem exactlyOnePinRowMatches : Obligations.ExactlyOnePinRowMatches := by
  unfold Obligations.ExactlyOnePinRowMatches
  decide

/-- Settles O27: each word by evaluation of its table's decoder. -/
theorem writtenOutWordsDecode : Obligations.WrittenOutWordsDecode :=
  ⟨rfl, rfl, rfl, rfl, rfl, rfl, rfl, rfl, rfl, rfl, rfl, rfl⟩

/-! ## The host's call (R59, R72) -/

/-- Settles O44: a waiting call is taken off the list and performed; the call of an empty list is NOP. -/
theorem stepPerformsTheNextCall : Obligations.StepPerformsTheNextCall :=
  ⟨fun s c cs _ h => step_of_pending s c cs h, fun s _ h => step_of_no_pending s h⟩

/-- Settles O49: the strobe word has `rst` set, and such a word is RESET whatever else it holds. -/
theorem resetWinsOverWrite : Obligations.ResetWinsOverWrite := by
  intro s wr p _
  have hrst : (0b1#1 ++ BitVec.ofBool wr).getLsbD 1 = true := by cases wr <;> rfl
  rw [step_present, decodeCall, decodeStrobe_of_rst hrst]

/-! ## SAMPLE and READ on a configured Card (R71, R101, R180) -/

theorem exec_sample (p : Byte) (s : State) :
    exec (.sample p) s = .next (s.answer (.levels (sampleLevels s.masks p))) := rfl

/-- Settles O20: testing a mask of the PinMap is reading the port bit at its position. -/
theorem sampleReadsThePinPositions : Obligations.SampleReadsThePinPositions := by
  intro s p hcard
  rw [exec_sample, hcard.sampleLevels_eq]
  rfl

/-- ENCODE shows the line at the dataIn position and 0 at every other (R102). -/
theorem encodeLine_deriveMasks_getLsbD (pins : PinMap) (line : Bool) (k : Nat) (hk : k < 8) :
    (encodeLine (deriveMasks pins) line).getLsbD k = (decide (k = pins.dataIn.toNat) && line) := by
  cases line with
  | false => simp
  | true =>
    rw [encodeLine_true, Bool.and_true]
    exact bitMask_getLsbD pins.dataIn k hk

theorem encodeLine_eq_zero_or_dataIn (m : Masks) (line : Bool) :
    encodeLine m line = 0x00#8 ∨ encodeLine m line = m.dataIn := by
  cases line with
  | false => exact .inl rfl
  | true => exact .inr rfl

/-- Settles O22: READ answers `port_out`, which encodes the line with the masks of the PinMap. -/
theorem readShowsOnlyTheLine : Obligations.ReadShowsOnlyTheLine := by
  intro s hcard
  refine ⟨s.portOut, exec_read s, rfl, fun k hk => ?_, encodeLine_eq_zero_or_dataIn _ _⟩
  rw [State.portOut, hcard.masks_eq, encodeLine_deriveMasks_getLsbD _ _ k hk]

/-! ## The port byte that shows given levels (R85) -/

/-- A part of a port byte is high at its own position only, and there it is the level asked for. -/
theorem level_ite_bitMask (b : Bool) (i j : Idx3) :
    level (if b then bitMask i else 0x00#8) (bitMask j) = (b && decide (i = j)) := by
  cases b with
  | false => simp [level_zero]
  | true => simp [level_bitMask_bitMask]

/-- R85, R101: three levels shown at three distinct positions sample back to themselves. -/
theorem sampleLevels_portByteOf {pins : PinMap} (hwf : WF pins) (l : Levels) :
    sampleLevels (deriveMasks pins) (portByteOf (deriveMasks pins) l) = l := by
  obtain ⟨hclockOut, -, hclockSelect, -, houtSelect, -⟩ := (pinMap_wf_iff pins).mp hwf
  simp [sampleLevels, portByteOf, deriveMasks, level_or, level_ite_bitMask, hclockOut, hclockSelect, houtSelect,
    hclockOut.symm, hclockSelect.symm, houtSelect.symm]

/-- Settles O30: the three positions of a well-formed PinMap are distinct. -/
theorem portByteShowsTheLevels : Obligations.PortByteShowsTheLevels := fun _ l hwf => sampleLevels_portByteOf hwf l

/-! ## WRITE and the class of its pin word (R70, R73, R74, R105) -/

/-- Bookkeeping with the level that stands there changes nothing (R134). -/
theorem State.setPriorClock_of_eq {s : State} {c : Bool} (h : s.spi.priorClock = c) : s.setPriorClock c = s := by
  subst h; rfl

/-- A WRITE runs the class of its pin word, case by case of what a WRITE can do. -/
theorem exec_write_eq_class (s : State) (p : Byte) :
    exec (.write p) s = exec (decode (.pins (s.pinWord p) (level p s.masks.dataOut))) s := by
  obtain ⟨hdesel, hhold, hrise, hmid, hlast⟩ := execWrite_cases p s _ rfl
  obtain ⟨hs, hp, hc, hz⟩ := s.pinWord_bits p
  rw [decode, decodePins_eq, hs, hp, hc, hz]
  cases hsel : level p s.masks.select
  case true => exact hdesel hsel
  cases hprior : s.spi.priorClock <;> cases hclock : level p s.masks.clock
  case false.false =>
    calc exec (.write p) s = .next (s.answer .nothing) := hhold hsel (hclock.trans hprior.symm)
      _ = exec .writeHoldLo s := by rw [exec, execWriteHoldLo, State.setPriorClock_of_eq hprior]
  case true.true =>
    calc exec (.write p) s = .next (s.answer .nothing) := hhold hsel (hclock.trans hprior.symm)
      _ = exec .writeHoldHi s := by rw [exec, execWriteHoldHi, State.setPriorClock_of_eq hprior]
  case false.true => exact hrise hsel hprior hclock
  case true.false =>
    by_cases hbit : s.spi.bitIndex = 0#3
    · rw [beq_iff_eq.mpr hbit]
      exact hlast hsel hprior hclock hbit
    · rw [beq_eq_false_iff_ne.mpr hbit]
      exact hmid hsel hprior hclock hbit

/-- Settles O25: the data-out level of the statement is the one SAMPLE tests. -/
theorem writeRunsItsDecodedClass : Obligations.WriteRunsItsDecodedClass := fun s p _ => exec_write_eq_class s p

/-- WRITE reads of a port byte the three levels alone (R70). -/
theorem exec_write_congr_levels {s : State} {p q : Byte} (h : sampleLevels s.masks p = sampleLevels s.masks q) :
    exec (.write p) s = exec (.write q) s := by
  simp only [exec, execWrite, h]

/-- The same machine with other masks (R100). -/
def State.withMasks (s : State) (m : Masks) : State := { s with masks := m }

theorem State.captureBit_withMasks (s : State) (m : Masks) (i : Idx3) (d : Bool) :
    (s.withMasks m).captureBit i d = (s.captureBit i d).withMasks m := by
  cases d <;> rfl

/-- The falling edge inside a byte does the same with other masks (R136). -/
theorem State.fallMid_withMasks (s : State) (m : Masks) (d : Bool) :
    (((s.withMasks m).setPriorClock false).captureBit s.spi.bitIndex d).advance.answer .nothing =
      (((s.setPriorClock false).captureBit s.spi.bitIndex d).advance.answer .nothing).withMasks m :=
  congrArg (fun u : State => u.advance.answer .nothing) ((s.setPriorClock false).captureBit_withMasks m _ d)

theorem State.completeByte_withMasks (s : State) (m : Masks) :
    (s.withMasks m).completeByte = s.completeByte.withMasks m := by
  simp only [State.completeByte_eq, State.withMasks]

/-- The falling edge at the end of a byte does the same with other masks (R137). -/
theorem State.fallLast_withMasks (s : State) (m : Masks) (d : Bool) :
    (((s.withMasks m).setPriorClock false).captureBit 0#3 d).completeByte =
      ((s.setPriorClock false).captureBit 0#3 d).completeByte.withMasks m :=
  calc (((s.withMasks m).setPriorClock false).captureBit 0#3 d).completeByte
      = (((s.setPriorClock false).captureBit 0#3 d).withMasks m).completeByte :=
        congrArg State.completeByte ((s.setPriorClock false).captureBit_withMasks m 0#3 d)
    _ = ((s.setPriorClock false).captureBit 0#3 d).completeByte.withMasks m := State.completeByte_withMasks _ m

/-- A class of WRITE reads no mask and writes none: the levels are in its pin word already. -/
theorem exec_decodePins_withMasks (w : BitVec 4) (d : Bool) (s : State) (m : Masks) :
    ∃ t, exec (decodePins w d) s = .next t ∧ exec (decodePins w d) (s.withMasks m) = .next (t.withMasks m) := by
  obtain h | h | h | h | h | h := decodePins_cases w d <;> rw [h]
  iterate 4 exact ⟨_, rfl, rfl⟩
  · exact ⟨_, rfl, congrArg _ (s.fallMid_withMasks m d)⟩
  · exact ⟨_, rfl, congrArg _ (s.fallLast_withMasks m d)⟩

/-- Settles O31: SAMPLE reads three bits of the port byte; other masks with the same select, clock and data-out masks give
the same pin word, and its class reads no mask. -/
theorem onlyThreePortBitsMatter : Obligations.OnlyThreePortBitsMatter := by
  refine ⟨fun s p q hcard hselect hclock hdataOut => exec_write_congr_levels ?_, fun s p m _ => ?_⟩
  · simp only [hcard.sampleLevels_eq, pinLevel, hselect, hclock, hdataOut]
  · have hs := exec_write_eq_class s p
    have hs' := exec_write_eq_class (s.withMasks { s.masks with combined := m, dataIn := m }) p
    obtain ⟨t, hexec, hother⟩ := exec_decodePins_withMasks (s.pinWord p) (level p s.masks.dataOut) s
      { s.masks with combined := m, dataIn := m }
    exact ⟨t, hs.trans hexec, hs'.trans hother⟩

/-! ## A word placed before a step is the one the step performs (log 15) -/

/-- R85: what a configured Card samples of the byte that shows given levels. -/
theorem sampleLevels_showing {s : State} (hcard : Configured s) (select clock dataOut : Bool) :
    sampleLevels s.masks (s.showing select clock dataOut) =
      { select := select, dataOut := dataOut, clock := clock } := by
  rw [State.showing, hcard.masks_eq, sampleLevels_portByteOf hcard.pins_wf]

/-- The placed state has the bit index the pin word's bit `z` names. -/
theorem State.facing_pins_bitIndex (s : State) (w : BitVec 4) (d : Bool) :
    ((s.facing (.pins w d)).spi.bitIndex == 0#3) = w.getLsbD 0 := by
  simp only [State.facing, State.present_spi]
  cases w.getLsbD 0 with
  | true => rfl
  | false => by_cases h : s.spi.bitIndex = 0#3 <;> simp [h, firstBitIndex]

/-- The placed state shows its pin word. -/
theorem pinWord_facing {s : State} (hcard : Configured s) (w : BitVec 4) (d : Bool) :
    (s.facing (.pins w d)).pinWord (s.showing (w.getLsbD 3) (w.getLsbD 1) d) = w := by
  have hlevels := sampleLevels_showing hcard (w.getLsbD 3) (w.getLsbD 1) d
  have hselect : level (s.showing (w.getLsbD 3) (w.getLsbD 1) d) s.masks.select = w.getLsbD 3 :=
    congrArg Levels.select hlevels
  have hclock : level (s.showing (w.getLsbD 3) (w.getLsbD 1) d) s.masks.clock = w.getLsbD 1 :=
    congrArg Levels.clock hlevels
  obtain ⟨hs, hp, hc, hz⟩ := (s.facing (.pins w d)).pinWord_bits (s.showing (w.getLsbD 3) (w.getLsbD 1) d)
  apply BitVec.eq_of_getLsbD_eq
  intro k hk
  match k, hk with
  | 3, _ => exact hs.trans hselect
  | 2, _ => exact hp
  | 1, _ => exact hc.trans hclock
  | 0, _ => exact hz.trans (s.facing_pins_bitIndex w d)

/-- Settles O50: the placed call is a WRITE, and a WRITE runs the class of the pin word it shows. -/
theorem placedPinWordIsPerformed : Obligations.PlacedPinWordIsPerformed := by
  intro s w d hcard
  refine ⟨pinWord_facing hcard w d, ?_⟩
  have hdataOut : level (s.showing (w.getLsbD 3) (w.getLsbD 1) d) s.masks.dataOut = d :=
    congrArg Levels.dataOut (sampleLevels_showing hcard _ _ d)
  calc step (s.facing (.pins w d))
      = exec (.write (s.showing (w.getLsbD 3) (w.getLsbD 1) d)) (s.facing (.pins w d)).takeCall := rfl
    _ = exec (decode (.pins ((s.facing (.pins w d)).pinWord (s.showing (w.getLsbD 3) (w.getLsbD 1) d))
          (level (s.showing (w.getLsbD 3) (w.getLsbD 1) d) s.masks.dataOut))) (s.facing (.pins w d)).takeCall :=
        exec_write_eq_class _ _
    _ = exec (decode (.pins w d)) (s.facing (.pins w d)).takeCall := by rw [pinWord_facing hcard, hdataOut]

/-- R137, R160: capturing bit 0 and completing the byte leaves the state of `afterCompletedByte`. -/
theorem completeByte_captureBit_zero (s : State) (d : Bool) :
    ((s.setPriorClock false).captureBit 0#3 d).completeByte =
      afterCompletedByte s (if d then setBit s.spi.inputBuffer 0#3 else s.spi.inputBuffer) := by
  simp [State.completeByte_eq, State.captureBit_eq, afterCompletedByte, Spi.queueAfterCommand, isCmd40, cmd40Byte,
    cmd40Response, queueDefault, clearedInput, firstBitIndex, State.setPriorClock]

/-- A byte is its upper seven bits with its own bit 0 captured. -/
theorem upperBits_setBit_zero_eq (rx : Byte) :
    (if bitAt rx 0#3 then setBit (rx &&& 0xFE#8) 0#3 else rx &&& 0xFE#8) = rx := by
  revert rx; decide

/-- Settles O51: the placed WRITE is a selected falling edge at bit index 0 that shows bit 0 of the byte, whose other bits
are captured already. -/
theorem placedCommandByteIsPerformed : Obligations.PlacedCommandByteIsPerformed := by
  intro s rx hcard
  have hlevels := sampleLevels_showing hcard false false (bitAt rx 0#3)
  obtain ⟨-, -, -, -, hlast⟩ := execWrite_cases (s.showing false false (bitAt rx 0#3))
    (s.facing (.command rx)).takeCall _ hlevels
  calc step (s.facing (.command rx))
      = execWrite (s.showing false false (bitAt rx 0#3)) (s.facing (.command rx)).takeCall := rfl
    _ = .next (((s.facing (.command rx)).takeCall.setPriorClock false).captureBit 0#3 (bitAt rx 0#3)).completeByte :=
        hlast rfl rfl rfl rfl
    _ = .next (afterCompletedByte (s.facing (.command rx)).takeCall
          (if bitAt rx 0#3 then setBit (rx &&& 0xFE#8) 0#3 else rx &&& 0xFE#8)) :=
        congrArg _ (completeByte_captureBit_zero _ _)
    _ = .next (afterCompletedByte s rx) := by rw [upperBits_setBit_zero_eq]; rfl

end Sys2Proof.Machine

/-! # The pin mapping: MASKS, SAMPLE and ENCODE (R100 to R102) -/

namespace Sys2Proof.Machine

/-- The bit positions a PinMap uses. -/
def pinPositions (p : PinMap) : List Nat :=
  [p.clock.toNat, p.dataOut.toNat, p.dataIn.toNat, p.select.toNat]

/-- A well-formed PinMap uses no position twice (R9). -/
theorem pinPositions_nodup {p : PinMap} (hwf : WF p) : (pinPositions p).Nodup := by
  obtain ⟨hclockOut, hclockIn, hclockSelect, houtIn, houtSelect, hinSelect⟩ := (pinMap_wf_iff p).mp hwf
  simp [pinPositions, BitVec.toNat_inj, hclockOut, hclockIn, hclockSelect, houtIn, houtSelect,
    hinSelect]

theorem lt_eight_of_mem_pinPositions {p : PinMap} {k : Nat} (h : k ∈ pinPositions p) : k < 8 := by
  simp only [pinPositions, List.mem_cons, List.not_mem_nil, or_false] at h
  obtain rfl | rfl | rfl | rfl := h <;> exact BitVec.isLt _

/-- The OR of the four masks has exactly the bits at the positions (R100). -/
theorem combined_getLsbD_iff (p : PinMap) {k : Nat} (hk : k < 8) :
    (deriveMasks p).combined.getLsbD k = true ↔ k ∈ pinPositions p := by
  simp [deriveMasks, pinPositions, bitMask_getLsbD _ k hk, or_assoc]

/-- The set bits of the OR are the positions, in some order. -/
theorem combined_setBits_perm_pinPositions {p : PinMap} (hwf : WF p) :
    ((List.range 8).filter fun k => (deriveMasks p).combined.getLsbD k).Perm (pinPositions p) := by
  refine (List.perm_ext_iff_of_nodup (List.nodup_range.filter _) (pinPositions_nodup hwf)).mpr fun k => ?_
  rw [List.mem_filter, List.mem_range]
  constructor
  · rintro ⟨hk, hbit⟩
    exact (combined_getLsbD_iff p hk).mp hbit
  · intro hmem
    have hk := lt_eight_of_mem_pinPositions hmem
    exact ⟨hk, (combined_getLsbD_iff p hk).mpr hmem⟩

/-- Settles O18: the OR has one bit for each of the four distinct positions. -/
theorem masksAreTheSingleBits : Obligations.MasksAreTheSingleBits := by
  intro s hwf
  exact ⟨deriveMasks s.pins, rfl, rfl, rfl, rfl, rfl, rfl, bitMask_ne_zero _, bitMask_ne_zero _, bitMask_ne_zero _,
    bitMask_ne_zero _, (combined_setBits_perm_pinPositions hwf).length_eq⟩

/-- Settles O19: a level is a masked byte compared with zero. -/
theorem sampleTestsThreeMasks : Obligations.SampleTestsThreeMasks := fun s p _ => exec_sample p s

theorem exec_encode (line : Bool) (s : State) :
    exec (.encode line) s = .next (s.answer (.byte (encodeLine s.masks line))) := rfl

/-- Settles O21: the two lines of ENCODE are the two cases of `encodeLine`. -/
theorem encodeGivesTheDataInMask : Obligations.EncodeGivesTheDataInMask := by
  intro s _
  rw [exec_encode, exec_encode, encodeLine_true, encodeLine_false]
  exact ⟨rfl, rfl⟩

end Sys2Proof.Machine

/-! # The response queue: ENQUEUE, DEQUEUE_OR_DEFAULT and its length across a byte boundary (R120 to R122) -/

namespace Sys2Proof.Machine

theorem isCmd40_iff (rx : Byte) : isCmd40 rx = true ↔ rx = 0x40#8 := by simp [isCmd40, cmd40Byte]

/-- R122 (b): the command leaves four bytes more for 0x40, else the queue it found. -/
theorem Spi.queueAfterCommand_length (c : Spi) (rx : Byte) : (c.queueAfterCommand rx).length =
    if rx = 0x40#8 then c.outputQueue.length + 4 else c.outputQueue.length := by
  simp only [Spi.queueAfterCommand, isCmd40_iff]
  split <;> simp [cmd40Response]

/-- R122 (c): the refresh of a boundary takes one byte from the queue the command left, if there is one. -/
theorem State.boundary_queue_length (s : State) (rx tx : Byte) :
    (s.boundary rx tx).spi.outputQueue.length = (s.spi.queueAfterCommand rx).length - 1 := by
  rw [State.boundary_eq, List.length_tail]

/-- Settles O15: four bytes come and one goes for 0x40; else one goes, if there is one. -/
theorem boundaryChangesQueueLength : Obligations.BoundaryChangesQueueLength := by
  intro s rx tx _
  refine ⟨s.boundary rx tx, rfl, ?_⟩
  rw [State.boundary_queue_length, Spi.queueAfterCommand_length]
  split <;> rfl

theorem exec_enqueue (bytes : List Byte) (s : State) :
    exec (.enqueue bytes) s = .next ((s.enqueue bytes).answer .nothing) := rfl

/-- R120: the empty sequence leaves the queue as it is. -/
@[simp] theorem State.enqueue_nil (s : State) : s.enqueue [] = s := by
  simp [State.enqueue, Spi.push]

/-- Settles O13: ENQUEUE is one append to the queue, and the empty list appends nothing. -/
theorem enqueueAppendsAtTheTail : Obligations.EnqueueAppendsAtTheTail := by
  intro s bytes _
  refine ⟨exec_enqueue bytes s, ?_⟩
  rw [exec_enqueue, State.enqueue_nil]
  rfl

/-- R121: DEQUEUE_OR_DEFAULT answers the head or the default, and leaves the tail. -/
theorem exec_dequeueOrDefault (s : State) : exec .dequeueOrDefault s = .next { s with
    spi := { s.spi with outputQueue := s.spi.outputQueue.tail }
    result := .byte (s.spi.outputQueue.headD queueDefault) } := by
  rw [← Spi.afterPop_eq, ← Spi.popped_eq]
  rfl

/-- Settles O14: an empty queue has the default 0x00 for its head and is its own tail. -/
theorem dequeueReturnsHeadOrZero : Obligations.DequeueReturnsHeadOrZero := by
  refine ⟨fun s _ hempty => ?_, fun s b rest _ hqueue => ?_⟩
  · rw [exec_dequeueOrDefault, hempty, List.tail_nil, List.headD_nil, ← hempty]
    rfl
  · rw [exec_dequeueOrDefault, hqueue]
    rfl

end Sys2Proof.Machine

/-! # The shift engine: the six classes of WRITE and the frame of each (R130 to R139) -/

namespace Sys2Proof.Machine

/-! ## The levels a port byte shows -/

/-- R81: a level is high exactly when the masked byte is not zero. -/
theorem level_eq_true_iff (p m : Byte) : level p m = true ↔ p &&& m ≠ 0#8 := by simp [level]

/-! ## What each class leaves, field by field -/

theorem exec_writeDesel (s : State) : exec .writeDesel s = .next { s with result := .nothing } := rfl

/-- R134: with the clock low already, the bookkeeping writes what stands there. -/
theorem exec_writeHoldLo {s : State} (hprior : s.spi.priorClock = false) :
    exec .writeHoldLo s = .next (s.answer .nothing) := by
  rw [exec, execWriteHoldLo, State.setPriorClock_of_eq hprior]

/-- R134: the same with the clock high. -/
theorem exec_writeHoldHi {s : State} (hprior : s.spi.priorClock = true) :
    exec .writeHoldHi s = .next (s.answer .nothing) := by
  rw [exec, execWriteHoldHi, State.setPriorClock_of_eq hprior]

theorem exec_writeRise (s : State) : exec .writeRise s = .next { s with
    spi := { s.spi with priorClock := true, outputLine := s.spi.outputBuffer.getLsbD s.spi.bitIndex.toNat }
    result := .nothing } := rfl

theorem exec_writeFallMid (d : Bool) (s : State) : exec (.writeFallMid d) s = .next { s with
    spi := { s.spi with
      priorClock := false
      inputBuffer := if d then s.spi.inputBuffer ||| 1#8 <<< s.spi.bitIndex.toNat else s.spi.inputBuffer
      bitIndex := s.spi.bitIndex - 1#3 }
    result := .nothing } :=
  congrArg (fun u : State => Host.Outcome.next (u.advance.answer .nothing))
    ((s.setPriorClock false).captureBit_eq s.spi.bitIndex d)

theorem exec_writeFallLast (d : Bool) (s : State) : exec (.writeFallLast d) s = .next (afterCompletedByte s
    (if d then s.spi.inputBuffer ||| 0x01#8 else s.spi.inputBuffer)) :=
  congrArg _ (completeByte_captureBit_zero s d)

/-! ## Each class, as the WRITE that decodes to it and as the class itself -/

/-- Settles O4: WRITE tests the select level first, and the class writes only `result`, which READ does not look at. -/
theorem deselectedWriteChangesNothing : Obligations.DeselectedWriteChangesNothing := by
  refine ⟨fun s p _ hselect => ⟨?_, rfl⟩, fun s _ => exec_writeDesel s, fun w d hw => ?_⟩
  · obtain ⟨hdesel, -, -, -, -⟩ := execWrite_cases p s _ rfl
    exact hdesel ((level_eq_true_iff _ _).mpr hselect)
  · rw [decode, decodePins_eq, if_pos hw]

/-- Settles O6: with the clock level unchanged there is no edge, and the bookkeeping writes what stands there. -/
theorem holdWriteChangesNothing : Obligations.HoldWriteChangesNothing := by
  refine ⟨fun s p _ hselect hclock => ?_, fun s _ => exec_writeHoldLo, fun s _ => exec_writeHoldHi, by decide⟩
  obtain ⟨-, hhold, -, -, -⟩ := execWrite_cases p s _ rfl
  exact hhold ((level_eq_false_iff _ _).mpr hselect) hclock

/-- Settles O7: a selected WRITE that raises the clock is the class RISE. -/
theorem risingEdgePresentsTheBit : Obligations.RisingEdgePresentsTheBit := by
  refine ⟨fun s p _ hselect hprior hclock => ?_, fun s _ _ => exec_writeRise s, by decide⟩
  obtain ⟨-, -, hrise, -, -⟩ := execWrite_cases p s _ rfl
  calc exec (.write p) s
      = exec .writeRise s := hrise ((level_eq_false_iff _ _).mpr hselect) hprior ((level_eq_true_iff _ _).mpr hclock)
    _ = _ := exec_writeRise s

/-- Settles O8: a selected WRITE that lowers the clock inside a byte is the class FALL_MID of the level it shows. -/
theorem fallingEdgeInsideAByteCapturesABit : Obligations.FallingEdgeInsideAByteCapturesABit := by
  refine ⟨fun s p _ hselect hprior hclock hbit => ⟨?_, toNat_sub_one_add_one _ hbit⟩,
    fun s d _ _ _ => exec_writeFallMid d s, by decide⟩
  obtain ⟨-, -, -, hmid, -⟩ := execWrite_cases p s _ rfl
  calc exec (.write p) s
      = exec (.writeFallMid (level p s.masks.dataOut)) s :=
        hmid ((level_eq_false_iff _ _).mpr hselect) hprior ((level_eq_false_iff _ _).mpr hclock) hbit
    _ = _ := by simp only [exec_writeFallMid, level_eq_true_iff]

/-- Settles O9: a selected WRITE that lowers the clock at bit index 0 is the class FALL_LAST of the level it shows. -/
theorem fallingEdgeAtBitZeroCompletesTheByte : Obligations.FallingEdgeAtBitZeroCompletesTheByte := by
  refine ⟨fun s p _ hselect hprior hclock hbit => ?_, fun s d _ _ _ => exec_writeFallLast d s, by decide⟩
  obtain ⟨-, -, -, -, hlast⟩ := execWrite_cases p s _ rfl
  calc exec (.write p) s
      = exec (.writeFallLast (level p s.masks.dataOut)) s :=
        hlast ((level_eq_false_iff _ _).mpr hselect) hprior ((level_eq_false_iff _ _).mpr hclock) hbit
    _ = _ := by simp only [exec_writeFallLast, level_eq_true_iff]

/-! ## The class of a WRITE, the clock level it was taken at, and the state it leaves -/

/-- A WRITE of the given class taken in state `s` and what it leaves (R131, R134 to R137). -/
inductive ClassOutcome (s : State) : Instr → State → Prop
  | desel : ClassOutcome s .writeDesel (s.answer .nothing)
  | holdLo : s.spi.priorClock = false → ClassOutcome s .writeHoldLo (s.answer .nothing)
  | holdHi : s.spi.priorClock = true → ClassOutcome s .writeHoldHi (s.answer .nothing)
  | rise : s.spi.priorClock = false → ClassOutcome s .writeRise ((s.setPriorClock true).presentBit.answer .nothing)
  | fallMid (d : Bool) : s.spi.priorClock = true → s.spi.bitIndex ≠ 0#3 → ClassOutcome s (.writeFallMid d)
      (((s.setPriorClock false).captureBit s.spi.bitIndex d).advance.answer .nothing)
  | fallLast (d : Bool) : s.spi.priorClock = true → s.spi.bitIndex = 0#3 → ClassOutcome s (.writeFallLast d)
      ((s.setPriorClock false).captureBit 0#3 d).completeByte

/-- Every WRITE answers, with the outcome of the class its pin word decodes to; bit 2 of the pin word is the clock level it
was taken at. -/
theorem exec_write_classOutcome (p : Byte) (s : State) : ∃ t, exec (.write p) s = .next t ∧
    ClassOutcome s (decode (.pins (s.pinWord p) (level p s.masks.dataOut))) t := by
  obtain ⟨hs, hp, hc, hz⟩ := s.pinWord_bits p
  rw [exec_write_eq_class, decode, decodePins_eq, hs, hp, hc, hz]
  cases level p s.masks.select
  case true => exact ⟨_, rfl, .desel⟩
  cases hprior : s.spi.priorClock <;> cases level p s.masks.clock
  case false.false => exact ⟨_, exec_writeHoldLo hprior, .holdLo hprior⟩
  case true.true => exact ⟨_, exec_writeHoldHi hprior, .holdHi hprior⟩
  case false.true => exact ⟨_, rfl, .rise hprior⟩
  case true.false =>
    cases hbit : s.spi.bitIndex == 0#3
    case true => exact ⟨_, rfl, .fallLast _ hprior (beq_iff_eq.mp hbit)⟩
    case false => exact ⟨_, rfl, .fallMid _ hprior (beq_eq_false_iff_ne.mp hbit)⟩

section ClassOutcome

variable {s t : State} {c : Instr}

theorem ClassOutcome.writeOutcome (h : ClassOutcome s c t) : WriteOutcome s t := by
  cases h with
  | desel | holdLo | holdHi => exact .idle
  | rise hprior => exact .rise hprior
  | fallMid d hprior hbit => exact .fallMid d hprior hbit
  | fallLast d hprior hbit => exact .fallLast d hprior hbit

/-- A WRITE without an edge leaves the protocol state as it was (R131, R134). -/
theorem ClassOutcome.spi_eq_of_idle (h : ClassOutcome s c t)
    (hc : c = .writeDesel ∨ c = .writeHoldLo ∨ c = .writeHoldHi) : t.spi = s.spi := by
  obtain rfl | rfl | rfl := hc <;> cases h <;> rfl

/-- R138: a rising edge is taken with the clock low and leaves it high. -/
theorem ClassOutcome.priorClock_of_rise (h : ClassOutcome s c t) (hc : c = .writeRise) :
    s.spi.priorClock = false ∧ t.spi.priorClock = true := by
  subst hc
  cases h with
  | rise hprior => exact ⟨hprior, rfl⟩

/-- R138: a falling edge is taken with the clock high and leaves it low. -/
theorem ClassOutcome.priorClock_of_fall (h : ClassOutcome s c t)
    (hc : ∃ d, c = .writeFallMid d ∨ c = .writeFallLast d) : s.spi.priorClock = true ∧ t.spi.priorClock = false := by
  obtain ⟨d, rfl | rfl⟩ := hc
  · cases h with
    | fallMid _ hprior => exact ⟨hprior, by simp⟩
  · cases h with
    | fallLast _ hprior => exact ⟨hprior, by simp [State.completeByte_eq]⟩

/-- Every WRITE is without an edge, or takes a rising or a falling one (R132). -/
theorem ClassOutcome.idle_or_rise_or_fall (h : ClassOutcome s c t) :
    (c = .writeDesel ∨ c = .writeHoldLo ∨ c = .writeHoldHi) ∨ c = .writeRise ∨
      ∃ d, c = .writeFallMid d ∨ c = .writeFallLast d := by
  cases h with
  | desel | holdLo | holdHi => simp
  | rise => simp
  | fallMid | fallLast => simp

/-- R139: the clock level moves at an edge only, to the level of the edge. -/
theorem ClassOutcome.edge_of_priorClock_ne (h : ClassOutcome s c t) (hne : t.spi.priorClock ≠ s.spi.priorClock) :
    (c = .writeRise ∧ t.spi.priorClock = true) ∨
      ((∃ d, c = .writeFallMid d ∨ c = .writeFallLast d) ∧ t.spi.priorClock = false) := by
  obtain hidle | hrise | hfall := h.idle_or_rise_or_fall
  · exact absurd (congrArg Spi.priorClock (h.spi_eq_of_idle hidle)) hne
  · obtain ⟨-, hhigh⟩ := h.priorClock_of_rise hrise
    exact .inl ⟨hrise, hhigh⟩
  · obtain ⟨-, hlow⟩ := h.priorClock_of_fall hfall
    exact .inr ⟨hfall, hlow⟩

/-- R139: only a rising edge moves the line. -/
theorem ClassOutcome.rise_of_outputLine_ne (h : ClassOutcome s c t) (hne : t.spi.outputLine ≠ s.spi.outputLine) :
    c = .writeRise := by
  cases h with
  | rise => rfl
  | desel | holdLo | holdHi => exact absurd rfl hne
  | fallMid => simp at hne
  | fallLast => simp [State.completeByte_eq] at hne

/-- R139: only a falling edge moves the bit index or the input buffer. -/
theorem ClassOutcome.fall_of_input_ne (h : ClassOutcome s c t)
    (hne : t.spi.bitIndex ≠ s.spi.bitIndex ∨ t.spi.inputBuffer ≠ s.spi.inputBuffer) :
    ∃ d, c = .writeFallMid d ∨ c = .writeFallLast d := by
  cases h with
  | fallMid d => exact ⟨d, .inl rfl⟩
  | fallLast d => exact ⟨d, .inr rfl⟩
  | desel | holdLo | holdHi | rise => simp at hne

/-- R139: only the end of a byte moves the output byte or the queue. -/
theorem ClassOutcome.fallLast_of_output_ne (h : ClassOutcome s c t)
    (hne : t.spi.outputBuffer ≠ s.spi.outputBuffer ∨ t.spi.outputQueue ≠ s.spi.outputQueue) :
    ∃ d, c = .writeFallLast d := by
  cases h with
  | fallLast d => exact ⟨d, rfl⟩
  | desel | holdLo | holdHi | rise | fallMid => simp at hne

end ClassOutcome

/-- Settles O33: the outcome of the class, with the clock level it was taken at. -/
theorem edgesAlternate : Obligations.EdgesAlternate := by
  intro s p _
  obtain ⟨t, hexec, hout⟩ := exec_write_classOutcome p s
  exact ⟨t, hexec, hout.priorClock_of_rise, hout.priorClock_of_fall,
    fun hidle => congrArg Spi.priorClock (hout.spi_eq_of_idle hidle)⟩

/-- Settles O32: the outcome of the class, field by field. -/
theorem writeChangesOnlyWhatItsClassMay : Obligations.WriteChangesOnlyWhatItsClassMay := by
  intro s t p _ h
  obtain ⟨t', hexec, hout⟩ := exec_write_classOutcome p s
  cases hexec.symm.trans h
  obtain ⟨hpins, hmasks, hstorage, hpending⟩ := hout.writeOutcome.frame
  exact ⟨hpins, hmasks, hstorage, hpending, hout.rise_of_outputLine_ne, hout.fall_of_input_ne,
    hout.fallLast_of_output_ne, hout.edge_of_priorClock_ne, hout.spi_eq_of_idle⟩

end Sys2Proof.Machine

/-! # The byte boundary: command, refresh, event, and the bytes a Card sends over a run (R160 to R166, R188) -/

namespace Sys2Proof.Machine

/-! ## The command and the boundary -/

/-- What the command of a completed byte appends to the queue (R161, R162). -/
def responseTo (rx : Byte) : List Byte := if rx = 0x40#8 then cmd40Response else []

@[simp] theorem responseTo_cmd40 : responseTo 0x40#8 = cmd40Response := rfl

theorem responseTo_of_ne {rx : Byte} (hrx : rx ≠ 0x40#8) : responseTo rx = [] := if_neg hrx

theorem Spi.queueAfterCommand_eq_append (c : Spi) (rx : Byte) :
    c.queueAfterCommand rx = c.outputQueue ++ responseTo rx := by
  simp only [Spi.queueAfterCommand, isCmd40_iff, responseTo]
  split
  · rfl
  · exact (List.append_nil _).symm

/-- R160, R163: BOUNDARY takes the output byte from the queue the command left. -/
theorem exec_boundary (rx tx : Byte) (s : State) : exec (.boundary rx tx) s = .next { s with
    spi := { s.spi with
      outputBuffer := (s.spi.outputQueue ++ responseTo rx).headD 0x00#8
      outputQueue := (s.spi.outputQueue ++ responseTo rx).tail }
    result := .event { rx := rx, tx := tx } } := by
  rw [← Spi.queueAfterCommand_eq_append]
  exact congrArg _ (s.boundary_eq rx tx)

/-- Settles O10: the queue the boundary refreshes from is the one the command left, with the response for 0x40 only. -/
theorem boundaryAppliesCommandThenRefreshesThenEmits : Obligations.BoundaryAppliesCommandThenRefreshesThenEmits := by
  intro s rx tx _
  by_cases hrx : rx = 0x40#8
  · subst hrx
    exact exec_boundary 0x40#8 tx s
  · simp only [if_neg hrx, exec_boundary, responseTo_of_ne hrx, List.append_nil]

theorem exec_cmd40 (s : State) : exec .cmd40 s = .next ((s.enqueue cmd40Response).answer .nothing) := rfl

theorem exec_cmdNone (rx : Byte) (s : State) : exec (.cmdNone rx) s = .next (s.answer .nothing) := rfl

/-- R76: the command of a byte, by the byte. -/
theorem decode_command (rx : Byte) : decode (.command rx) = if rx = 0x40#8 then .cmd40 else .cmdNone rx := by
  simp only [decode, decodeCommand, isCmd40_iff]

/-- Settles O11: CMD_40 is one ENQUEUE of the response, and the command decoder compares with 0x40. -/
theorem cmd40EnqueuesTheResponse : Obligations.Cmd40EnqueuesTheResponse := by
  refine ⟨fun s _ => exec_cmd40 s, fun rx => ?_⟩
  by_cases hrx : rx = 0x40#8 <;> simp [decode_command, hrx]

/-- Settles O12: with no response the boundary refreshes from the queue as it stands. -/
theorem cmdNoneHasNoEffect : Obligations.CmdNoneHasNoEffect := by
  refine ⟨fun s rx _ => exec_cmdNone rx s, fun rx hrx => ?_, fun s rx tx _ hrx => ?_⟩
  · rw [decode_command, if_neg hrx]
  · rw [exec_boundary, responseTo_of_ne hrx, List.append_nil]

/-! ## The event -/

theorem exec_event (rx tx : Byte) (s : State) :
    exec (.event rx tx) s = .next { s with result := .event { rx := rx, tx := tx } } := rfl

/-- R137, R164: of the classes of WRITE, the end of a byte alone returns an event. -/
theorem ClassOutcome.event_iff_fallLast {s t : State} {c : Instr} (h : ClassOutcome s c t) :
    (∃ e, t.result = .event e) ↔ ∃ d, c = .writeFallLast d := by
  cases h with
  | desel | holdLo | holdHi | rise | fallMid => simp
  | fallLast => simp [State.completeByte_eq]

/-- R74: the one pin word of the class FALL_LAST, bit by bit. -/
theorem decodePins_eq_fallLast_iff (w : BitVec 4) (d : Bool) : (∃ d', decodePins w d = .writeFallLast d') ↔
    w.getLsbD 3 = false ∧ w.getLsbD 2 = true ∧ w.getLsbD 1 = false ∧ w.getLsbD 0 = true := by
  revert w d; decide

/-- R73, R74: a WRITE ends a byte when it is selected and lowers the clock at bit index 0. -/
theorem decode_pinWord_fallLast_iff (s : State) (p : Byte) (d : Bool) :
    (∃ d', decode (.pins (s.pinWord p) d) = .writeFallLast d') ↔ level p s.masks.select = false ∧
      s.spi.priorClock = true ∧ level p s.masks.clock = false ∧ s.spi.bitIndex = 0#3 := by
  obtain ⟨hselect, hprior, hclock, hzero⟩ := s.pinWord_bits p
  rw [decode, decodePins_eq_fallLast_iff, hselect, hprior, hclock, hzero, beq_iff_eq]

/-! ## The bytes a Card sends over a run -/

/-- The bytes still to be sent, the one in flight first. -/
def State.outgoing (s : State) : List Byte := s.spi.outputBuffer :: s.spi.outputQueue

/-- The bytes sent while `rxs` are received, from `outgoing` bytes still to be sent: one for each byte received, the default
once there are none, and each response behind what waits then (R121, R160, R166). -/
def sentBytes : (outgoing rxs : List Byte) → List Byte
  | _, [] => []
  | q, rx :: rxs => q.headD queueDefault :: sentBytes (q.tail ++ responseTo rx) rxs

/-- The refresh from an empty queue puts the default in flight, which is what would be sent anyway (R163, R187). -/
theorem sentBytes_headD_cons_tail (q rxs : List Byte) :
    sentBytes (q.headD queueDefault :: q.tail) rxs = sentBytes q rxs := by
  cases q with
  | nil => cases rxs <;> rfl
  | cons b q => rfl

/-- R164: a WRITE returns nothing and sends nothing, or completes a byte: its event carries the byte in flight, and the queue
the command left is refreshed from. -/
theorem WriteOutcome.nothing_or_event {s t : State} (h : WriteOutcome s t) :
    (t.result = .nothing ∧ t.outgoing = s.outgoing) ∨
    ∃ rx, t.result = .event { rx := rx, tx := s.spi.outputBuffer } ∧
      t.outgoing = (s.spi.outputQueue ++ responseTo rx).headD queueDefault :: (s.spi.outputQueue ++ responseTo rx).tail := by
  cases h with
  | idle | rise => exact .inl ⟨rfl, rfl⟩
  | fallMid d => exact .inl ⟨rfl, by simp [State.outgoing]⟩
  | fallLast d =>
    refine .inr ⟨((s.setPriorClock false).captureBit 0#3 d).spi.inputBuffer, ?_⟩
    simp [State.completeByte_eq, State.outgoing, Spi.queueAfterCommand_eq_append]

/-- Settles O17: the WRITE that completes a byte is the class FALL_LAST, and its pin word is a selected falling edge at bit
index 0. -/
theorem eventIsEmittedExactlyAtAByteBoundary : Obligations.EventIsEmittedExactlyAtAByteBoundary := by
  refine ⟨fun s rx tx _ => exec_event rx tx s, fun s p _ => ?_⟩
  obtain ⟨t, hexec, hclass⟩ := exec_write_classOutcome p s
  refine ⟨t, hexec, ?_, ?_⟩
  · rw [hclass.event_iff_fallLast, decode_pinWord_fallLast_iff, level_eq_false_iff, level_eq_false_iff]
  · obtain ⟨hnothing, -⟩ | ⟨rx, hevent, -⟩ := hclass.writeOutcome.nothing_or_event
    · exact .inl hnothing
    · exact .inr ⟨_, hevent⟩

/-- Any WRITEs are performed, and the bytes of their events are those `sentBytes` gives for the bytes received. -/
theorem runCalls_writeCalls_sentBytes (ps : List Byte) : ∀ s : State,
    ∃ t rs, runCalls (writeCalls ps) s = .next (t, rs) ∧
      (eventsOf rs).map Event.tx = sentBytes s.outgoing ((eventsOf rs).map Event.rx) := by
  induction ps with
  | nil => exact fun s => ⟨s, [], rfl, rfl⟩
  | cons p ps ih =>
    intro s
    obtain ⟨s', hexec, hout⟩ := execWrite_outcome p s
    obtain ⟨t, rs, hrun, hsent⟩ := ih s'
    refine ⟨t, s'.result :: rs, runCalls_cons _ _ s s' t rs hexec hrun, ?_⟩
    obtain ⟨hresult, hsame⟩ | ⟨rx, hresult, hnext⟩ := hout.nothing_or_event
    · rw [hresult, eventsOf_nothing, hsent, hsame]
    · rw [hnext, sentBytes_headD_cons_tail] at hsent
      rw [hresult, eventsOf_event, List.map_cons, List.map_cons, hsent]
      rfl

/-- R166: bytes still to be sent are sent first, whatever is received and whatever waits behind them. -/
theorem sentBytes_take_length (rxs : List Byte) : ∀ q behind : List Byte,
    (sentBytes (q ++ behind) rxs).take q.length = q.take rxs.length := by
  induction rxs with
  | nil => intro q behind; simp [sentBytes]
  | cons rx rxs ih =>
    intro q behind
    cases q with
    | nil => rfl
    | cons b q =>
      have hrest := ih q (behind ++ responseTo rx)
      rw [← List.append_assoc] at hrest
      exact congrArg (b :: ·) hrest

/-- R121, R188: without a command, every byte after those still to be sent is the default. -/
theorem sentBytes_drop_length (rxs : List Byte) (hrxs : ∀ rx ∈ rxs, rx ≠ 0x40#8) : ∀ q : List Byte,
    ∀ b ∈ (sentBytes q rxs).drop q.length, b = queueDefault := by
  induction rxs with
  | nil => simp [sentBytes]
  | cons rx rxs ih =>
    obtain ⟨hrx, hrest⟩ := List.forall_mem_cons.mp hrxs
    intro q
    rw [sentBytes, responseTo_of_ne hrx, List.append_nil]
    cases q with
    | nil => exact List.forall_mem_cons.mpr ⟨rfl, ih hrest []⟩
    | cons b q => exact ih hrest q

/-- The first events of any WRITEs carry the bytes still to be sent, in their order; the later ones, without a command, the
default. -/
theorem runCalls_writeCalls_sends_outgoing (ps : List Byte) (s : State) :
    ∃ t rs, runCalls (writeCalls ps) s = .next (t, rs) ∧
      ((eventsOf rs).map Event.tx).take s.outgoing.length = s.outgoing.take (eventsOf rs).length ∧
      ((∀ e ∈ eventsOf rs, e.rx ≠ 0x40#8) → ∀ e ∈ (eventsOf rs).drop s.outgoing.length, e.tx = queueDefault) := by
  obtain ⟨t, rs, hrun, hsent⟩ := runCalls_writeCalls_sentBytes ps s
  refine ⟨t, rs, hrun, ?_, fun hrx e he => ?_⟩
  · have hfirst := sentBytes_take_length ((eventsOf rs).map Event.rx) s.outgoing []
    rwa [List.append_nil, ← hsent, List.length_map] at hfirst
  · have hlater := sentBytes_drop_length _ (List.forall_mem_map.mpr hrx) s.outgoing
    rw [← hsent, ← List.map_drop] at hlater
    exact hlater _ (List.mem_map_of_mem he)

/-- R161, R166: completing a 0x40 leaves the bytes queued, then the response, still to be sent. -/
theorem outgoing_afterCompletedByte_cmd40 (s : State) :
    (afterCompletedByte s 0x40#8).outgoing = s.spi.outputQueue ++ cmd40Response := by
  cases hqueue : s.spi.outputQueue <;> simp [afterCompletedByte, State.outgoing, hqueue, cmd40Response]

/-- Settles O38: once the 0x40 has completed, the bytes queued and the response are what is still to be sent. -/
theorem responseWaitsBehindQueuedBytes : Obligations.ResponseWaitsBehindQueuedBytes := by
  intro s d ps _ _ _ hrx
  obtain ⟨u, rs, hrun, hfirst, -⟩ := runCalls_writeCalls_sends_outgoing ps (afterCompletedByte s 0x40#8)
  refine ⟨_, u, rs, by rw [exec_writeFallLast, hrx], hrun, ?_⟩
  rw [outgoing_afterCompletedByte_cmd40, List.length_append] at hfirst
  exact hfirst

/-- Settles O39: after RESET the three power-on bytes are what is still to be sent. -/
theorem powerOnBytesComeFirst : Obligations.PowerOnBytesComeFirst := by
  intro s r ps _ hreset
  have houtgoing : r.outgoing = [0x00#8, 0x00#8, 0xFF#8] := by cases hreset; rfl
  obtain ⟨t, rs, hrun, hfirst, hlater⟩ := runCalls_writeCalls_sends_outgoing ps r
  rw [houtgoing] at hfirst hlater
  exact ⟨t, rs, hrun, hfirst, hlater⟩

end Sys2Proof.Machine

/-! # Laws over sequences of WRITEs and READs: the idle Card, the bytes received and shown, one exchange (R182 to R189) -/

namespace Sys2Proof.Machine

/-- A run whose first call is a WRITE. -/
theorem runCalls_write_cons {p : Byte} {cs : List HostCall} {s s' t : State} {rs : List Result}
    (h : execWrite p s = .next s') (hs : runCalls cs s' = .next (t, rs)) :
    runCalls (.strobe 0b01#2 p :: cs) s = .next (t, s'.result :: rs) :=
  runCalls_cons _ cs s s' t rs h hs

/-! ## Deselected WRITEs, the empty queue, the answer to a command (R182, R186, R187) -/

/-- R182: deselected WRITEs leave the state as it was, but for what the last one returned. -/
theorem runCalls_writeCalls_deselected (ps : List Byte) : ∀ s : State, (∀ p ∈ ps, p &&& s.masks.select ≠ 0#8) →
    ∃ r rs, runCalls (writeCalls ps) s = .next (s.answer r, rs) ∧ eventsOf rs = [] := by
  induction ps with
  | nil => exact fun s _ => ⟨s.result, [], rfl, rfl⟩
  | cons p ps ih =>
    intro s hdeselected
    obtain ⟨hp, hps⟩ := List.forall_mem_cons.mp hdeselected
    obtain ⟨hdesel, -, -, -, -⟩ := execWrite_cases p s _ rfl
    obtain ⟨r, rs, hrun, hevents⟩ := ih (s.answer .nothing) hps
    exact ⟨r, .nothing :: rs, runCalls_write_cons (hdesel ((level_eq_true_iff _ _).mpr hp)) hrun, hevents⟩

/-- Settles O5: only `result` moves, and READ does not look at it. -/
theorem deselectedSequenceIsIdle : Obligations.DeselectedSequenceIsIdle := by
  intro s ps _ hdeselected
  obtain ⟨r, rs, hrun, hevents⟩ := runCalls_writeCalls_deselected ps s hdeselected
  exact ⟨s.answer r, rs, hrun, rfl, hevents, rfl⟩

/-- Settles O16: the refresh takes the head of the response alone, which is empty but for 0x40. -/
theorem emptyQueueLoadsZeroAtABoundary : Obligations.EmptyQueueLoadsZeroAtABoundary := by
  intro s rx tx _ hempty
  refine ⟨_, exec_boundary rx tx s, fun hrx => ?_, fun hrx => ?_⟩
  · rw [hempty, responseTo_of_ne hrx]
    rfl
  · rw [hempty, hrx]
    rfl

/-- Settles O37: with no byte queued, the response is the first of what O38 says is sent. -/
theorem commandWithEmptyQueueIsAnsweredAtOnce : Obligations.CommandWithEmptyQueueIsAnsweredAtOnce := by
  intro s d ps hwf hprior hbit hempty hrx
  obtain ⟨t, u, rs, hexec, hrun, hsent⟩ := responseWaitsBehindQueuedBytes s d ps hwf hprior hbit hrx
  refine ⟨t, u, rs, hexec, ?_, hrun, by rwa [hempty] at hsent⟩
  rw [exec_writeFallLast, hrx] at hexec
  cases hexec
  rfl

/-! ## The bytes a Card receives over a run (R184) -/

/-- The receiving half of a Card: the next bit, the byte being assembled, and the bytes completed so far. -/
structure Receiver where
  bitIndex    : Idx3
  inputBuffer : Byte
  bytes       : List Byte
  deriving DecidableEq

/-- One captured level (R136, R137). -/
def Receiver.take (r : Receiver) (d : Bool) : Receiver :=
  let captured := if d then setBit r.inputBuffer r.bitIndex else r.inputBuffer
  if r.bitIndex = 0#3 then { bitIndex := 7#3, inputBuffer := 0x00#8, bytes := r.bytes ++ [captured] }
  else { r with bitIndex := r.bitIndex - 1#3, inputBuffer := captured }

/-- The receiving half of `s`, with the given bytes completed before. -/
def State.receiver (s : State) (bytes : List Byte) : Receiver :=
  { bitIndex := s.spi.bitIndex, inputBuffer := s.spi.inputBuffer, bytes := bytes }

/-- At the start of a byte (R137). -/
theorem State.receiver_of_start {s : State} (hseven : s.spi.bitIndex = 7#3) (hclear : s.spi.inputBuffer = 0x00#8) :
    s.receiver [] = { bitIndex := 7#3, inputBuffer := 0x00#8, bytes := [] } := by
  rw [State.receiver, hseven, hclear]

/-- One WRITE: its falling edge, if it shows one, is one captured level, and its event one completed byte. -/
theorem TakesEdges.receiver_eq {s t : State} {es : List Edge} (h : TakesEdges s es t) (bytes : List Byte) :
    t.receiver (bytes ++ (eventsOf [t.result]).map Event.rx) = (fallingData es).foldl Receiver.take (s.receiver bytes) := by
  cases h with
  | idle | rise => exact congrArg s.receiver (List.append_nil bytes)
  | fallMid d _ hbit => simp [State.receiver, fallingData, Receiver.take, hbit]
  | fallLast d _ hbit =>
    simp [State.receiver, fallingData, Receiver.take, hbit, State.completeByte_eq, firstBitIndex, clearedInput]

/-- Along any WRITEs a configured Card receives the levels of the falling edges the port shows, and nothing else. -/
theorem runCalls_writeCalls_receiver (ps : List Byte) : ∀ {s : State}, Configured s → ∀ bytes : List Byte,
    ∃ t rs, runCalls (writeCalls ps) s = .next (t, rs) ∧ t.receiver (bytes ++ (eventsOf rs).map Event.rx) =
      (fallingData (edges s.pins s.spi.priorClock ps)).foldl Receiver.take (s.receiver bytes) := by
  induction ps with
  | nil => exact fun {s} _ bytes => ⟨s, [], rfl, congrArg s.receiver (List.append_nil bytes)⟩
  | cons p ps ih =>
    intro s hcard bytes
    obtain ⟨s', es, hexec, htakes, hedges⟩ := execWrite_takesEdges p hcard
    obtain ⟨hpins, -, -, -⟩ := htakes.writeOutcome.frame
    obtain ⟨t, rs, hrun, hrest⟩ := ih (htakes.writeOutcome.configured hcard) (bytes ++ (eventsOf [s'.result]).map Event.rx)
    refine ⟨t, s'.result :: rs, runCalls_write_cons hexec hrun, ?_⟩
    rw [hpins, htakes.receiver_eq, List.append_assoc, ← List.map_append, ← eventsOf_append] at hrest
    rw [hedges, fallingData_append, List.foldl_append, ← hrest]
    rfl

/-- The bits of a byte, bit 7 first. -/
def bitsOf (h : Byte) : List Bool := [7, 6, 5, 4, 3, 2, 1, 0].map h.getLsbD

/-- From bit index 7 the bits of a byte, bit 7 first, make the byte. -/
theorem receiver_take_bitsOf (h : Byte) :
    (bitsOf h).foldl Receiver.take { bitIndex := 7#3, inputBuffer := 0x00#8, bytes := [] } =
      { bitIndex := 7#3, inputBuffer := 0x00#8, bytes := [h] } := by
  revert h; decide

/-- R82: any eight levels are the bits of a byte, and its value is the sum of their weights. -/
theorem exists_bitsOf_eq (d7 d6 d5 d4 d3 d2 d1 d0 : Bool) : ∃ h, bitsOf h = [d7, d6, d5, d4, d3, d2, d1, d0] ∧
    h.toNat = d7.toNat * 128 + d6.toNat * 64 + d5.toNat * 32 + d4.toNat * 16 + d3.toNat * 8 + d2.toNat * 4 +
      d1.toNat * 2 + d0.toNat := by
  refine ⟨BitVec.ofNat 8 (d7.toNat * 128 + d6.toNat * 64 + d5.toNat * 32 + d4.toNat * 16 + d3.toNat * 8 + d2.toNat * 4 +
    d1.toNat * 2 + d0.toNat), ?_⟩
  revert d7 d6 d5 d4 d3 d2 d1 d0
  decide

/-- Settles O35: the run receives the eight levels of its falling edges, which make one byte. -/
theorem receivedByteIsTheEightCapturedLevels : Obligations.ReceivedByteIsTheEightCapturedLevels := by
  intro s ps d7 d6 d5 d4 d3 d2 d1 d0 hcard hbit hclear hfalling
  obtain ⟨t, rs, hrun, hreceived⟩ := runCalls_writeCalls_receiver ps hcard []
  obtain ⟨rx, hbits, hrx⟩ := exists_bitsOf_eq d7 d6 d5 d4 d3 d2 d1 d0
  rw [hfalling, ← hbits, State.receiver_of_start hbit hclear, receiver_take_bitsOf, State.receiver, Receiver.mk.injEq,
    List.nil_append, List.map_eq_singleton_iff] at hreceived
  obtain ⟨hseven, hinput, e, hevents, rfl⟩ := hreceived
  exact ⟨t, rs, e, hrun, hevents, hrx, hinput, hseven⟩

/-! ## The bits of the output byte on the line (R185) -/

/-- How many edges a Card takes before the last falling edge of its byte: two for each bit below the one in force, and the
rising edge of that one while the clock is low. -/
def State.edgesLeft (s : State) : Nat := 2 * s.spi.bitIndex.toNat + (!s.spi.priorClock).toNat

/-- One WRITE short of the end of the byte: each edge counts one off, and the output byte stays. -/
theorem TakesEdges.edgesLeft_eq {s t : State} {es : List Edge} (h : TakesEdges s es t)
    (hshort : es.length ≤ s.edgesLeft) :
    t.edgesLeft + es.length = s.edgesLeft ∧ t.spi.outputBuffer = s.spi.outputBuffer := by
  cases h with
  | idle => exact ⟨rfl, rfl⟩
  | rise d hprior => simp [State.edgesLeft, hprior]
  | fallMid d hprior hbit =>
    have hdown := toNat_sub_one_add_one _ hbit
    refine ⟨?_, by simp⟩
    simp only [State.edgesLeft, State.answer_spi, State.advance_spi, State.captureBit_spi, State.setPriorClock_spi, hprior,
      Bool.not_false, Bool.not_true, Bool.toNat_true, Bool.toNat_false, List.length_singleton]
    omega
  | fallLast d hprior hbit => simp [State.edgesLeft, hprior, hbit] at hshort

/-- The same along any WRITEs that do not reach the end of the byte. -/
theorem runCalls_writeCalls_edgesLeft (ps : List Byte) : ∀ {s : State}, Configured s →
    (edges s.pins s.spi.priorClock ps).length ≤ s.edgesLeft →
    ∃ t rs, runCalls (writeCalls ps) s = .next (t, rs) ∧ Configured t ∧ t.pins = s.pins ∧
      t.edgesLeft + (edges s.pins s.spi.priorClock ps).length = s.edgesLeft ∧
      t.spi.outputBuffer = s.spi.outputBuffer := by
  induction ps with
  | nil => exact fun {s} hcard _ => ⟨s, [], rfl, hcard, rfl, rfl, rfl⟩
  | cons p ps ih =>
    intro s hcard hshort
    obtain ⟨s', es, hexec, htakes, hedges⟩ := execWrite_takesEdges p hcard
    obtain ⟨hpins, -, -, -⟩ := htakes.writeOutcome.frame
    rw [hedges, List.length_append] at hshort
    obtain ⟨hleft, hbuffer⟩ := htakes.edgesLeft_eq (by omega)
    obtain ⟨t, rs, hrun, hcard', hpins', hleft', hbuffer'⟩ :=
      ih (htakes.writeOutcome.configured hcard) (by rw [hpins]; omega)
    refine ⟨t, s'.result :: rs, runCalls_write_cons hexec hrun, hcard', hpins'.trans hpins, ?_,
      hbuffer'.trans hbuffer⟩
    rw [hpins] at hleft'
    rw [hedges, List.length_append]
    omega

/-- An odd number of edges is left exactly while the clock is low. -/
theorem State.low_of_edgesLeft_odd {s : State} {j : Nat} (h : s.edgesLeft = 2 * j + 1) :
    s.spi.priorClock = false ∧ s.spi.bitIndex.toNat = j := by
  rw [State.edgesLeft] at h
  cases hprior : s.spi.priorClock with
  | false => simp only [hprior, Bool.not_false, Bool.toNat_true, Nat.add_right_cancel_iff] at h; exact ⟨rfl, by omega⟩
  | true => simp only [hprior, Bool.not_true, Bool.toNat_false] at h; omega

/-- Settles O36: after `2 * k` of the 15 edges an odd number is left: the clock is low at bit index `7 - k`, and the next
WRITE is a rising edge. -/
theorem risingEdgesShowTheOutputByte : Obligations.RisingEdgesShowTheOutputByte := by
  intro s ps p k hcard hseven hlow hk hedges hselect hclock
  have hstart : s.edgesLeft = 15 := by simp [State.edgesLeft, hseven, hlow]
  rw [← hlow] at hedges
  obtain ⟨t, rs, hrun, hcard', hpins, hleft, hbuffer⟩ := runCalls_writeCalls_edgesLeft ps hcard (by omega)
  have hodd : t.edgesLeft = 2 * (7 - k) + 1 := by omega
  obtain ⟨hlow', hbit⟩ := State.low_of_edgesLeft_odd hodd
  obtain ⟨-, -, hrise, -, -⟩ := execWrite_cases p t _ (hcard'.sampleLevels_eq p)
  rw [← hpins] at hselect hclock
  have hlast := runCalls_write_cons (hrise hselect hlow' hclock) (runCalls_nil _)
  refine ⟨_, _, by rw [writeCalls_append]; exact runCalls_append _ _ s t _ rs _ hrun hlast, ?_⟩
  rw [← hbuffer, ← hbit]
  rfl

/-! ## One exchange (R189) -/

/-- The state once the rest of a byte has been exchanged with `rx` received: bit 0 of the output byte is on the line, and the
byte is completed. -/
def State.afterExchange (s : State) (rx : Byte) : State :=
  afterCompletedByte { s with spi := { s.spi with outputLine := s.spi.outputBuffer.getLsbD 0 } } rx

/-- R180: READ of the line that shows bit `k` of the output byte. -/
def State.readOfBit (s : State) (k : Nat) : Byte := encodeLine s.masks (s.spi.outputBuffer.getLsbD k)

theorem Configured.readOfBit_eq {s : State} (hcard : Configured s) : s.readOfBit =
    fun k => if s.spi.outputBuffer.getLsbD k then 1#8 <<< s.pins.dataIn.toNat else 0x00#8 := by
  funext k
  rw [State.readOfBit, hcard.masks_eq]
  rfl

/-- The state in which READ leaves the Card between the two edges of `BIT d`: the bit in force is on the line. -/
def State.shown (s : State) : State :=
  (s.setPriorClock true).presentBit.answer (.byte (s.readOfBit s.spi.bitIndex.toNat))

@[simp] theorem State.shown_pins (s : State) : s.shown.pins = s.pins := rfl
@[simp] theorem State.shown_masks (s : State) : s.shown.masks = s.masks := rfl
@[simp] theorem State.shown_spi (s : State) : s.shown.spi =
    { s.spi with priorClock := true, outputLine := bitAt s.spi.outputBuffer s.spi.bitIndex } := rfl

/-- `BIT d` from a low clock: the rising edge shows the bit in force, READ returns it, and the falling edge follows. -/
theorem runCalls_bitCalls {s t : State} {d : Bool} (hcard : Configured s) (hlow : s.spi.priorClock = false)
    (hfall : execWrite (s.showing false false d) s.shown = .next t) :
    runCalls (bitCalls s.masks d) s =
      .next (t, [.nothing, .byte (s.readOfBit s.spi.bitIndex.toNat), t.result]) := by
  obtain ⟨-, -, hrise, -, -⟩ := execWrite_cases _ s _ (sampleLevels_showing hcard false true d)
  have hread : exec (decodeCall .read) ((s.setPriorClock true).presentBit.answer .nothing) = .next s.shown := rfl
  exact runCalls_write_cons (hrise rfl hlow rfl)
    (runCalls_cons _ _ _ _ t _ hread (runCalls_write_cons hfall (runCalls_nil t)))

/-- The state after `BIT d` inside a byte. -/
def State.afterBit (s : State) (d : Bool) : State :=
  ((s.shown.setPriorClock false).captureBit s.spi.bitIndex d).advance.answer .nothing

theorem runCalls_bitCalls_mid {s : State} (d : Bool) (hcard : Configured s) (hlow : s.spi.priorClock = false)
    (hbit : s.spi.bitIndex ≠ 0#3) : runCalls (bitCalls s.masks d) s =
      .next (s.afterBit d, [.nothing, .byte (s.readOfBit s.spi.bitIndex.toNat), .nothing]) := by
  obtain ⟨-, -, -, hmid, -⟩ := execWrite_cases _ s.shown _ (sampleLevels_showing hcard false false d)
  exact runCalls_bitCalls hcard hlow (hmid rfl rfl rfl hbit)

/-- At bit index 0 the bit shown is bit 0. -/
theorem State.afterCompletedByte_shown {s : State} (hbit : s.spi.bitIndex = 0#3) (rx : Byte) :
    afterCompletedByte s.shown rx = s.afterExchange rx := by
  have hline : s.spi.outputBuffer.getLsbD 0 = bitAt s.spi.outputBuffer s.spi.bitIndex := by rw [hbit]; rfl
  rw [State.afterExchange, hline]
  rfl

/-- `BIT d` at bit index 0 captures bit 0 and ends the byte. -/
theorem runCalls_bitCalls_last {s : State} (d : Bool) (hcard : Configured s) (hlow : s.spi.priorClock = false)
    (hbit : s.spi.bitIndex = 0#3) : runCalls (bitCalls s.masks d) s =
      .next (s.afterExchange (if d then setBit s.spi.inputBuffer 0#3 else s.spi.inputBuffer),
        [.nothing, .byte (s.readOfBit 0), .event
          { rx := if d then setBit s.spi.inputBuffer 0#3 else s.spi.inputBuffer, tx := s.spi.outputBuffer }]) := by
  obtain ⟨-, -, -, -, hlast⟩ := execWrite_cases _ s.shown _ (sampleLevels_showing hcard false false d)
  have hrun := runCalls_bitCalls hcard hlow (hlast rfl rfl rfl hbit)
  rwa [completeByte_captureBit_zero, State.afterCompletedByte_shown hbit, hbit] at hrun

section AfterBit

variable (s : State) (d : Bool)

@[simp] theorem State.afterBit_pins : (s.afterBit d).pins = s.pins := by simp [State.afterBit]
@[simp] theorem State.afterBit_masks : (s.afterBit d).masks = s.masks := by simp [State.afterBit]
@[simp] theorem State.afterBit_spi : (s.afterBit d).spi =
    { s.spi with
      priorClock := false
      bitIndex := s.spi.bitIndex - 1#3
      outputLine := bitAt s.spi.outputBuffer s.spi.bitIndex
      inputBuffer := if d then setBit s.spi.inputBuffer s.spi.bitIndex else s.spi.inputBuffer } := by
  simp [State.afterBit]

/-- READ of a bit of the output byte is the same after a bit of the exchange. -/
theorem State.afterBit_readOfBit : (s.afterBit d).readOfBit = s.readOfBit := by
  funext k
  simp [State.readOfBit]

/-- `BIT d` inside a byte captures one level (R136). -/
theorem State.afterBit_receiver (hbit : s.spi.bitIndex ≠ 0#3) :
    (s.afterBit d).receiver [] = (s.receiver []).take d := by
  simp [State.receiver, Receiver.take, hbit]

/-- The end of the exchange does not depend on what an earlier bit left on the line or in the input buffer. -/
theorem State.afterBit_afterExchange (rx : Byte) : (s.afterBit d).afterExchange rx = s.afterExchange rx := by
  rw [State.afterBit, State.captureBit_eq]
  rfl

end AfterBit

/-- The rest of a byte, exchanged bit by bit from a low clock: the READs show the output byte from the bit in force down to
bit 0, and the one event comes last. -/
theorem runCalls_rest_of_byte (ds : List Bool) : ∀ {s : State} {rx : Byte}, Configured s → s.spi.priorClock = false →
    s.spi.bitIndex.toNat + 1 = ds.length →
    ds.foldl Receiver.take (s.receiver []) = { bitIndex := 7#3, inputBuffer := 0x00#8, bytes := [rx] } →
    ∃ rs, runCalls (ds.flatMap (bitCalls s.masks)) s =
        .next (s.afterExchange rx, rs ++ [.event { rx := rx, tx := s.spi.outputBuffer }]) ∧
      readsOf rs = (List.range ds.length).reverse.map s.readOfBit ∧ eventsOf rs = [] ∧ rs.length + 1 = 3 * ds.length := by
  induction ds with
  | nil => intro s rx _ _ hlen; simp at hlen
  | cons d ds ih =>
    intro s rx hcard hlow hlen hreceived
    rw [List.length_cons, Nat.add_right_cancel_iff] at hlen
    by_cases hbit : s.spi.bitIndex = 0#3
    case pos =>
      obtain rfl : ds = [] := by simpa [hbit, eq_comm] using hlen
      obtain rfl : (if d then setBit s.spi.inputBuffer 0#3 else s.spi.inputBuffer) = rx := by
        simpa [State.receiver, Receiver.take, hbit] using hreceived
      exact ⟨[.nothing, .byte (s.readOfBit 0)], runCalls_bitCalls_last d hcard hlow hbit, rfl, rfl, rfl⟩
    case neg =>
      have hdown := toNat_sub_one_add_one _ hbit
      rw [List.foldl_cons, ← s.afterBit_receiver d hbit] at hreceived
      have hcard' : Configured (s.afterBit d) := ⟨by simpa using hcard.pins_wf, by simpa using hcard.masks_eq⟩
      obtain ⟨rs, hrun, hreads, hevents, hcount⟩ := ih hcard' (by simp) (by simpa [hlen] using hdown) hreceived
      rw [s.afterBit_readOfBit] at hreads
      rw [s.afterBit_afterExchange, s.afterBit_masks, s.afterBit_spi] at hrun
      refine ⟨[.nothing, .byte (s.readOfBit s.spi.bitIndex.toNat), .nothing] ++ rs, ?_, ?_, hevents, ?_⟩
      · rw [List.flatMap_cons, List.append_assoc]
        exact runCalls_append _ _ s _ _ _ _ (runCalls_bitCalls_mid d hcard hlow hbit) hrun
      · rw [List.length_cons, List.range_succ, List.reverse_concat, List.map_cons, ← hreads, ← hlen]
        rfl
      · simp only [List.length_append, List.length_cons, List.length_nil]
        omega

/-- R85: `XFER hh` is `BIT` of each bit of the byte, bit 7 first. -/
theorem xferCalls_eq (m : Masks) (h : Byte) : xferCalls m h = (bitsOf h).flatMap (bitCalls m) :=
  (List.flatMap_map ..).symm

/-- Settles O40: `XFER hh` exchanges the bits of the byte from bit index 7, and they are received as the byte. -/
theorem fullDuplexExchange : Obligations.FullDuplexExchange := by
  intro s h hcard hseven hclear hlow
  have hreceived := receiver_take_bitsOf h
  rw [← State.receiver_of_start hseven hclear] at hreceived
  obtain ⟨rs, hrun, hreads, hevents, hcount⟩ :=
    runCalls_rest_of_byte (bitsOf h) hcard hlow (by rw [hseven]; rfl) hreceived
  rw [← xferCalls_eq] at hrun
  refine ⟨_, hrun, ?_, ?_, ?_, List.getLast?_concat⟩
  · rw [readsOf, List.filterMap_append, ← readsOf, hreads, hcard.readOfBit_eq]
    rfl
  · rw [eventsOf_append, hevents]
    rfl
  · rw [List.length_append]
    exact hcount

end Sys2Proof.Machine

/-! # Faults and refusals: no operation and no step ends in one (R200) -/

namespace Sys2Proof.Machine

/-- WRITE answers with one of its four outcomes, and the arm of every other operation is a next state as it is written. The
PinMap need not be well-formed: the rules are total (R9). -/
theorem exec_completes (i : Instr) (s : State) : ∃ t, exec i s = .next t := by
  cases i with
  | write p =>
    obtain ⟨t, hexec, -⟩ := execWrite_outcome p s
    exact ⟨t, hexec⟩
  | reset | nop | read | writeDesel | writeHoldLo | writeHoldHi | writeRise | writeFallMid | writeFallLast | cmd40 | cmdNone
  | masks | sample | encode | enqueue | dequeueOrDefault | boundary | event => exact ⟨_, rfl⟩

/-- Settles O48: a step is the operation of the host's next call, and every operation completes. -/
theorem everyOperationCompletes : Obligations.EveryOperationCompletes :=
  ⟨fun i s _ => exec_completes i s, fun s _ => exec_completes (decodeCall s.nextCall) s.takeCall⟩

end Sys2Proof.Machine

/-! # Reset and reselection: `State.reset`, and the clock across a deselected interval (R230, R240) -/

namespace Sys2Proof.Machine

/-! ## `State.reset` (R37, R230) -/

/-- Settles O2: PM_A is well-formed, so construction gives the Card of it, whose masks and protocol state are those RESET
writes. -/
theorem stateResetIsTheResultOfReset : Obligations.StateResetIsTheResultOfReset := by
  have hwf : WF State.reset.pins := by decide
  exact ⟨hwf, if_pos hwf, rfl, rfl, rfl, rfl⟩

/-! ## Reselection (R240) -/

/-- A WRITE does not look at what the operation before it returned: each of its paths overwrites it (R13, R130). -/
theorem execWrite_answer (p : Byte) (s : State) (r : Result) : execWrite p (s.answer r) = execWrite p s := rfl

/-- R80: the event of an operation, as the run of that operation alone shows it. -/
theorem eventsOf_result (t : State) : eventsOf [t.result] = t.event?.toList := by
  unfold State.event?
  cases t.result <;> rfl

/-- Settles O41: the deselected WRITEs move `result` alone (R182), which the WRITE after them does not look at; so it finds
the clock level of the last selected WRITE. -/
theorem reselectionComparesWithTheStaleClock : Obligations.ReselectionComparesWithTheStaleClock := by
  intro s ps p _ hdeselected
  obtain ⟨r, rs, hidle, hevents⟩ := runCalls_writeCalls_deselected ps s hdeselected
  obtain ⟨t, hexec, -⟩ := execWrite_outcome p s
  have hlast : runCalls (writeCalls [p]) (s.answer r) = .next (t, [t.result]) :=
    runCalls_write_cons ((execWrite_answer p s r).trans hexec) (runCalls_nil t)
  refine ⟨t, rs ++ [t.result], hexec, ?_, ?_⟩
  · rw [writeCalls_append]
    exact runCalls_append _ _ s _ t rs _ hidle hlast
  · rw [eventsOf_append, hevents, List.nil_append, eventsOf_result]

end Sys2Proof.Machine

/-! # RESET and NOP: the state each leaves (R37, R230; D6) -/

namespace Sys2Proof.Machine

/-- R230: RESET loads the three power-on bytes and the refresh takes the first of them into the output buffer. -/
theorem Spi.initial_eq : Spi.initial =
    { priorClock := false, bitIndex := 7#3, outputBuffer := 0x00#8, outputQueue := [0x00#8, 0xFF#8],
      outputLine := false, inputBuffer := 0x00#8 } := by
  rw [Spi.initial, Spi.refresh_eq]
  rfl

theorem exec_reset (s : State) :
    exec .reset s = .next ({ s.computeMasks with spi := Spi.initial }.answer .nothing) := rfl

/-- Settles O1: RESET derives the masks from the PinMap as MASKS does, and starts the protocol state afresh. -/
theorem resetLeavesTheRule37State : Obligations.ResetLeavesTheRule37State := by
  intro s _
  rw [exec_reset, Spi.initial_eq]
  rfl

theorem exec_nop (s : State) : exec .nop s = .next (s.answer .nothing) := rfl

/-- Settles O24: NOP only answers, and an answer writes `result` alone. -/
theorem nopHoldsTheState : Obligations.NopHoldsTheState := fun s _ => exec_nop s

end Sys2Proof.Machine
